-- ==== Sys2Proof/Word.lean ====
section
/-!
DEFINITION. The widths of the machine's values. All values are unsigned (rule R7).
The block has no machine word: each register has its own width (rule R20).
-/

namespace Sys2Proof

/-- One bit: the level of a pin (rule R21) or of a digital sensor (rule R39). -/
abbrev Bit := BitVec 1

/-- A tick counter, `W_TICK` = 4 bits (rules R24 and R25). -/
abbrev TickCount := BitVec 4

/-- The event word of one step of the block, 4 bits (rule R70). -/
abbrev EventWord := BitVec 4

/-- A byte of the serial channel, and half of the analog setpoint (rule R7). -/
abbrev Byte := BitVec 8

/-- A pulse count, `W_PULSE` = 16 bits (rules R22 and R23). -/
abbrev Pulse := BitVec 16

/-- The analog setpoint, 16 bits (rule R38). -/
abbrev Setpoint := BitVec 16

end Sys2Proof
end

