-- ==== Sys2Proof/Syntax.lean ====
section
/-!
DEFINITION. The operations an event word selects: one constructor per row of the decode table (rule R71).
-/

namespace Sys2Proof

/-- The operations of rule R71.
No operation has an operand (rule R74), and the trigger bits of a reset word are no operand of `RST` (rule R73).
`CAPTURE`, `REPORT` and `RXBYTE` have no event word (rules R123, R140 and R144) and so no constructor: they are operations of
the machine (`Machine.State.capture`, `Machine.State.report`, `Machine.State.rxByte`). -/
inductive Instr where
  /-- `NOP`, no trigger at this step (rule R129). -/
  | nop
  /-- `CAR`, toggle the carrier output (rule R100). -/
  | car
  /-- `EDGE`, count one pulse (rule R110). -/
  | edge
  /-- `SIM.CE`, `CAR` and `EDGE` at once (rule R130). -/
  | simCE
  /-- `TICK`, advance the timebase by one tick (rule R120). -/
  | tick
  /-- `SIM.CT`, `CAR` and `TICK` at once (rule R130). -/
  | simCT
  /-- `SIM.ET`, `EDGE` and `TICK` at once (rule R130). -/
  | simET
  /-- `SIM.CET`, `CAR`, `EDGE` and `TICK` at once (rule R130). -/
  | simCET
  /-- `RST`, reset the block (rule R190). -/
  | rst
  deriving DecidableEq, Repr

end Sys2Proof
end

