-- ==== Sys2Proof/Trace.lean ====
section
/-!
DEFINITION. The trace notation of rule R77, as syntax: what a written trace is made of.
The characters it is written in, its expansion and its assembly stand in Decode.lean.
-/

namespace Sys2Proof

/-- The order annotation of rule R77: `[E<T]` or `[T<E]`. -/
inductive EdgeTickOrder where
  /-- `EDGE` then `TICK`. -/
  | edgeFirst
  /-- `TICK` then `EDGE`. -/
  | tickFirst
  deriving DecidableEq, Repr

/-- A trace as rule R77 writes it. -/
inductive Trace where
  /-- The empty trace, which `*0` gives. -/
  | empty
  /-- A mnemonic of rule R71, with its order annotation if it has one. -/
  | op (i : Instr) (order : Option EdgeTickOrder)
  /-- One item after another, written with `;` or on the next line. -/
  | seq (first second : Trace)
  /-- `*n`: the item, or the bracketed sequence, repeated `n` times. -/
  | times (body : Trace) (n : Nat)
  /-- `WINDOW`. -/
  | window
  /-- `DECADE`. -/
  | decade
  /-- `PULSES n`. -/
  | pulses (n : Nat)
  deriving DecidableEq, Repr

end Sys2Proof
end

