-- ==== Sys2Proof/WellFormed.lean ====
section
/-!
DEFINITION. What is well formed: operations, event words as the assembler emits them, and written traces.
-/

namespace Sys2Proof

/-- Every operation is well formed: none has an operand (rule R74) and no encoding is reserved or illegal (rule R75). -/
def Instr.wellFormed : Instr → Bool
  | .nop => true
  | .car => true
  | .edge => true
  | .simCE => true
  | .tick => true
  | .simCT => true
  | .simET => true
  | .simCET => true
  | .rst => true

/-- The event words the assembler emits: the words 9 to F decode as `RST` but are never emitted (rule R77). -/
def EventWord.emitted (w : EventWord) : Bool :=
  decide (w.toNat ≤ 8)

/-- An operation whose outcome can depend on the order of its members (rule R131): the forms with both `E` and `T`. -/
def Instr.orderMatters : Instr → Bool
  | .simET => true
  | .simCET => true
  | .nop => false
  | .car => false
  | .edge => false
  | .simCE => false
  | .tick => false
  | .simCT => false
  | .rst => false

/-- A written trace is well formed when only simultaneous forms whose outcome can depend on order carry an order annotation
(rule R77). -/
def Trace.wellFormed : Trace → Bool
  | .empty => true
  | .op i none => i.wellFormed
  | .op i (some _) => i.wellFormed && i.orderMatters
  | .seq a b => a.wellFormed && b.wellFormed
  | .times t _ => t.wellFormed
  | .window => true
  | .decade => true
  | .pulses _ => true

end Sys2Proof
end

