-- ==== Sys2Proof/Decode.lean ====
section
/-!
DEFINITION. Event words: decoding (rules R70, R71, R73 and R75), encoding, and the trace notation of rule R77 from its characters
to its event words.
-/

namespace Sys2Proof

/-! ### The event word -/

/-- `EW[3]`, the reset input (rule R70). -/
def EventWord.rst (w : EventWord) : Bool := w.getLsbD 3

/-- `EW[2]`, the tick trigger (rule R70). -/
def EventWord.t (w : EventWord) : Bool := w.getLsbD 2

/-- `EW[1]`, the edge trigger (rule R70). -/
def EventWord.e (w : EventWord) : Bool := w.getLsbD 1

/-- `EW[0]`, the carrier trigger (rule R70). -/
def EventWord.c (w : EventWord) : Bool := w.getLsbD 0

/-- Decode of the event word (rule R71): total, and `RST` wins over the trigger bits (rule R73). -/
def decode (w : EventWord) : Instr :=
  match EventWord.rst w, EventWord.t w, EventWord.e w, EventWord.c w with
  | true, _, _, _ => .rst
  | false, false, false, false => .nop
  | false, false, false, true => .car
  | false, false, true, false => .edge
  | false, false, true, true => .simCE
  | false, true, false, false => .tick
  | false, true, false, true => .simCT
  | false, true, true, false => .simET
  | false, true, true, true => .simCET

/-- The event word of an operation (rule R71); for `RST` the one the assembler emits (rule R77). -/
def encode : Instr → EventWord
  | .nop => 0b0000#4
  | .car => 0b0001#4
  | .edge => 0b0010#4
  | .simCE => 0b0011#4
  | .tick => 0b0100#4
  | .simCT => 0b0101#4
  | .simET => 0b0110#4
  | .simCET => 0b0111#4
  | .rst => 0b1000#4

/-- A row of the decode table as masks: the words whose bits under `mask` are `value` select `instr`. -/
structure OpcodeRow where
  instr : Instr
  value : EventWord
  mask : EventWord
  deriving DecidableEq, Repr

/-- The nine rows of spec/opcode_table.json, their `match` and `mask` as the table gives them. -/
def opcodeTable : List OpcodeRow :=
  [⟨.nop, 0x0#4, 0xF#4⟩, ⟨.car, 0x1#4, 0xF#4⟩, ⟨.edge, 0x2#4, 0xF#4⟩, ⟨.simCE, 0x3#4, 0xF#4⟩, ⟨.tick, 0x4#4, 0xF#4⟩,
   ⟨.simCT, 0x5#4, 0xF#4⟩, ⟨.simET, 0x6#4, 0xF#4⟩, ⟨.simCET, 0x7#4, 0xF#4⟩, ⟨.rst, 0x8#4, 0x8#4⟩]

/-- Does the word select this row? -/
def OpcodeRow.selects (r : OpcodeRow) (w : EventWord) : Bool :=
  (w &&& r.mask) == r.value

/-! ### Event words laid out as bytes -/

/-- Why a byte is no event word. -/
inductive DecodeError where
  /-- A bit above the four of an event word is set: there is no such format (rules R70 and R76). -/
  | notFourBits (b : Byte)
  deriving DecidableEq, Repr

/-- One byte per event word, the four bits above the word zero. -/
def decodeByte (b : Byte) : Except DecodeError Instr :=
  if b.toNat < 16 then .ok (decode (BitVec.ofNat 4 b.toNat)) else .error (.notFourBits b)

/-- The operations of a sequence of bytes, or the first byte that is no event word. -/
def decodeBytes : List Byte → Except DecodeError (List Instr)
  | [] => .ok []
  | b :: bs =>
    match decodeByte b with
    | .error e => .error e
    | .ok i =>
      match decodeBytes bs with
      | .error e => .error e
      | .ok is => .ok (i :: is)

/-- The byte that holds an operation's event word. -/
def encodeByte (i : Instr) : Byte :=
  (encode i).setWidth 8

/-- The operations of a trace as bytes, step 0 first. -/
def encodeBytes (is : List Instr) : List Byte :=
  is.map encodeByte

/-- The operation decoded from the word `w` of a table row of `nbits` bits: an event word has four bits, so a word with a bit
above them set is refused. -/
def decodeTableWord (nbits w : Nat) : Option Instr :=
  if 4 ≤ nbits ∧ w < 256 then
    match decodeByte (BitVec.ofNat 8 w) with
    | .ok i => some i
    | .error _ => none
  else none

/-! ### Expansion and assembly of a written trace (rule R77) -/

/-- A list repeated `n` times. -/
def repeated {α : Type} (n : Nat) (xs : List α) : List α :=
  match n with
  | 0 => []
  | n + 1 => xs ++ repeated n xs

/-- The operations a written trace stands for, step 0 first, each with its order annotation: rule R77's table of expansions. -/
def Trace.expand : Trace → List (Instr × Option EdgeTickOrder)
  | .empty => []
  | .op i order => [(i, order)]
  | .seq a b => a.expand ++ b.expand
  | .times t n => repeated n t.expand
  | .window => repeated 100 [(.tick, none)]
  | .decade => repeated 10 [(.tick, none)]
  | .pulses n => repeated n [(.edge, none)]

/-- The event words of a written trace; the order annotation is not part of the encoding (rule R77). -/
def Trace.assemble (t : Trace) : List EventWord :=
  t.expand.map fun p => encode p.1

/-! ### Reading a written trace -/

/-- The spelling of an operation in the table of rule R71. -/
def Instr.spelling : Instr → List Char
  | .nop => ['N', 'O', 'P']
  | .car => ['C', 'A', 'R']
  | .edge => ['E', 'D', 'G', 'E']
  | .simCE => ['S', 'I', 'M', '.', 'C', 'E']
  | .tick => ['T', 'I', 'C', 'K']
  | .simCT => ['S', 'I', 'M', '.', 'C', 'T']
  | .simET => ['S', 'I', 'M', '.', 'E', 'T']
  | .simCET => ['S', 'I', 'M', '.', 'C', 'E', 'T']
  | .rst => ['R', 'S', 'T']

/-- The operations in the order of rule R71's table. -/
def Instr.all : List Instr :=
  [.nop, .car, .edge, .simCE, .tick, .simCT, .simET, .simCET, .rst]

/-- The spelling of an order annotation (rule R77). -/
def EdgeTickOrder.spelling : EdgeTickOrder → List Char
  | .edgeFirst => ['[', 'E', '<', 'T', ']']
  | .tickFirst => ['[', 'T', '<', 'E', ']']

/-- The marks of a written trace. -/
inductive TraceToken where
  | word (cs : List Char)
  | num (n : Nat)
  | separator
  | star
  | opening
  | closing
  deriving DecidableEq, Repr

/-- The value of a decimal numeral. -/
def numeral? (cs : List Char) : Option Nat :=
  cs.foldl
    (fun acc c => acc.bind fun n => if 48 ≤ c.toNat ∧ c.toNat ≤ 57 then some (10 * n + (c.toNat - 48)) else none)
    (some 0)

/-- The token of a finished word, if one was begun. -/
def wordToken (cs : List Char) : List TraceToken :=
  match cs with
  | [] => []
  | c :: rest =>
    match numeral? (c :: rest) with
    | some n => [.num n]
    | none => [.word (c :: rest)]

/-- The tokens of a written trace. `word` holds the characters of the word being read, last first; a comment runs from `#` to the
end of the line (rule R77). Characters 123 and 125 are the two braces, character 10 the end of a line. -/
def traceTokens (word : List Char) (comment : Bool) : List Char → List TraceToken
  | [] => wordToken word.reverse
  | c :: cs =>
    if c.toNat = 10 then wordToken word.reverse ++ .separator :: traceTokens [] false cs
    else if comment then traceTokens word true cs
    else if c = '#' then wordToken word.reverse ++ traceTokens [] true cs
    else if c = ';' then wordToken word.reverse ++ .separator :: traceTokens [] false cs
    else if c = '*' then wordToken word.reverse ++ .star :: traceTokens [] false cs
    else if c.toNat = 123 then wordToken word.reverse ++ .opening :: traceTokens [] false cs
    else if c.toNat = 125 then wordToken word.reverse ++ .closing :: traceTokens [] false cs
    else if c = ' ' ∨ c = '\t' then wordToken word.reverse ++ traceTokens [] false cs
    else traceTokens (c :: word) false cs

/-- The item a word spells, `PULSES` apart, since it takes a numeral. -/
def itemOf (cs : List Char) : Option Trace :=
  if cs = ['W', 'I', 'N', 'D', 'O', 'W'] then some .window
  else if cs = ['D', 'E', 'C', 'A', 'D', 'E'] then some .decade
  else
    (Instr.all.flatMap fun i =>
      [(i.spelling, Trace.op i none),
       (i.spelling ++ EdgeTickOrder.edgeFirst.spelling, Trace.op i (some .edgeFirst)),
       (i.spelling ++ EdgeTickOrder.tickFirst.spelling, Trace.op i (some .tickFirst))]).lookup cs

/-- May an item end here: before a separator, a closing brace or the end? -/
def endsItem : List TraceToken → Bool
  | [] => true
  | .separator :: _ => true
  | .closing :: _ => true
  | _ => false

/-- Reads a sequence of items up to a closing brace or the end, and answers what is left; `fuel` bounds the depth of the reading
and need not exceed the number of tokens plus one. -/
def readItems (fuel : Nat) (ts : List TraceToken) : Option (Trace × List TraceToken) :=
  match fuel, ts with
  | 0, _ => none
  | _ + 1, [] => some (.empty, [])
  | _ + 1, .closing :: rest => some (.empty, .closing :: rest)
  | fuel + 1, .separator :: rest => readItems fuel rest
  | fuel + 1, .opening :: rest =>
    match readItems fuel rest with
    | some (body, .closing :: .star :: .num n :: rest) =>
      if endsItem rest then (readItems fuel rest).map fun r => (.seq (.times body n) r.1, r.2) else none
    | _ => none
  | fuel + 1, .word cs :: rest =>
    let item : Option (Trace × List TraceToken) :=
      if cs = ['P', 'U', 'L', 'S', 'E', 'S'] then
        match rest with
        | .num n :: rest => some (.pulses n, rest)
        | _ => none
      else
        match itemOf cs, rest with
        | some t, .star :: .num n :: rest => some (.times t n, rest)
        | some t, rest => some (t, rest)
        | none, _ => none
    match item with
    | some (t, rest) => if endsItem rest then (readItems fuel rest).map fun r => (.seq t r.1, r.2) else none
    | none => none
  | _ + 1, _ => none

/-- Reads a written trace (rule R77); `none` where the text is no well-formed trace. -/
def readTrace (text : List Char) : Option Trace :=
  let tokens := traceTokens [] false text
  match readItems (tokens.length + 1) tokens with
  | some (t, []) => if t.wellFormed then some t else none
  | _ => none

end Sys2Proof
end

