-- ==== Sys2Proof/Config.lean ====
section
/-!
DEFINITION. The parameters of rule R6: the values this hardware fixes are constants here, the OPEN ones are the fields
of `Params`, and the free values of the overflow case are the opaque `anyPulse`.
-/

namespace Sys2Proof

/-- `OVF_MODE` (rule R113): what an `EDGE` does at `PULSE_COUNT` = `MAX`. -/
inductive OvfMode where
  | fault
  | wrap
  | saturate
  deriving DecidableEq, Repr

/-- `REPORT_BLOCKS_TRIGGERS` (decision D25): which trigger steps a transmitting `REPORT` excludes. -/
inductive ReportBlocks where
  /-- No `CAR`, `EDGE` or `TICK` step occurs while a `REPORT` is transmitting. -/
  | all
  /-- `CAR` and `EDGE` steps may occur while a `REPORT` is transmitting, `TICK` may not. -/
  | tickOnly
  deriving DecidableEq, Repr

/-- `EDGE_POLARITY` (rule R6): which transition of the rotation-sensor input is an `EDGE` trigger. -/
inductive EdgePolarity where
  | falling
  | rising
  deriving DecidableEq, Repr

/-- The OPEN parameters of rule R6 that a rule of the spec reads.
The spec fixes none of them (decisions D10, D11, D13, D25 and D28), so the state carries them as data that no step changes
and a statement over all states holds for every choice (log entry 2). -/
structure Params where
  /-- `CARRIER_INIT`, the level of `CARRIER_OUT` after reset. -/
  carrierInit : Bit
  /-- `SPEED_INIT`, the value of `SPEED` after reset. -/
  speedInit : Pulse
  /-- `OVF_MODE`. -/
  ovfMode : OvfMode
  /-- `DAC_INIT`, the value of `DAC_H ++ DAC_L` after reset. -/
  dacInit : Setpoint
  /-- `REPORT_BLOCKS_TRIGGERS`. -/
  reportBlocks : ReportBlocks
  deriving DecidableEq, Repr

namespace Config

/-- `TICK_MOD_LO` (rule R6). -/
def tickModLo : TickCount := 10#4

/-- `TICK_MOD_HI` (rule R6). -/
def tickModHi : TickCount := 10#4

/-- `WINDOW_TICKS` = `TICK_MOD_LO` × `TICK_MOD_HI` (rule R6). -/
def windowTicks : Nat := tickModLo.toNat * tickModHi.toNat

/-- `W_PULSE` (rule R6, decision D2), the width of `Pulse`. -/
def wPulse : Nat := 16

/-- `W_TICK` (rule R6, decision D5), the width of `TickCount`. -/
def wTick : Nat := 4

/-- `MAX` = 2^`W_PULSE` - 1 (rule R110). -/
def maxPulse : Nat := 2 ^ wPulse - 1

/-- `EDGE_POLARITY` (rule R6, decision D14). -/
def edgePolarity : EdgePolarity := .falling

/-- `CMD_MARKER` (rule R6), the synchronisation byte of a command frame. -/
def cmdMarker : Byte := 0xDD#8

/-- `TLM_SYNC` (rule R6), the synchronisation byte of a telemetry packet. -/
def tlmSync : Byte := 0xFF#8

/-- The length of a telemetry packet in bytes (rule R78). -/
def packetBytes : Nat := 6

/-- `T_TICK` in milliseconds (rule R6): nominal, timing only, read by no rule. -/
def tickPeriodMs : Nat := 1

/-- `T_WINDOW` in milliseconds (rule R6): nominal, timing only, read by no rule. -/
def windowMs : Nat := windowTicks * tickPeriodMs

/-- `SERIAL_BAUD` in symbols per second (rules R6 and R83): timing only, read by no rule. -/
def serialBaud : Nat := 9600

/-- Data bits of a serial byte (rule R83). -/
def serialDataBits : Nat := 8

/-- Parity bits of a serial byte (rule R83). -/
def serialParityBits : Nat := 0

/-- `CAR_TRIGGER_HZ` (rule R6, decision D16): OPEN, timing only, read by no rule, so it has no value here. -/
opaque carTriggerHz : Nat

/-- `any(W_PULSE)` of rule R9: the value `PULSE_COUNT` takes at the `n`-th overflow under `OVF_MODE` = `fault`
(rule R113).
It has no body, so nothing can be proved of any of its values (log entry 6). -/
opaque anyPulse : Nat → Pulse

end Config

/-- The defaults rule R6 suggests for the OPEN parameters.
Rule R6 suggests none for `DAC_INIT` and `REPORT_BLOCKS_TRIGGERS`; those two are a DESIGN CHOICE (log entry 3). -/
def Params.suggested : Params where
  carrierInit := 0#1
  speedInit := 0#16
  ovfMode := .fault
  dacInit := 0#16
  reportBlocks := .tickOnly

end Sys2Proof
end

