-- ==== Sys2Proof/Machine/State.lean ====
section
/-!
DEFINITION. The state of the machine: the block's five registers (rule R20), the model's record of its output and its fault
(rules R27 and R35), the adjacent layer (rules R36 to R39), and what the environment supplies (rules R10 and R11).
-/

namespace Sys2Proof.Machine

/-- Why the machine stops with a fault. `PulseOverflow` is not here: it is recorded in `FAULT_OVF` and stops nothing (R171). -/
inductive Fault where
  /-- Raised by `step` when the trace presents a trigger that `REPORT_BLOCKS_TRIGGERS` excludes while a `REPORT` is still waiting
  for the serial channel (rule R142, decision D25). Safe: such a schedule is not one of the machine's (rule R174). -/
  | reportStalled
  deriving DecidableEq, Repr

/-- Why the machine gives no meaning. -/
inductive Refusal where
  /-- Raised by `exec` for an operation that has no meaning yet. Safe. No arm answers it. -/
  | notModelled (mnemonic : String)
  /-- Raised by a `TICK` in a state with a tick counter above 9, for which the spec asks to refuse (rule R34). Safe. -/
  | tickCounterOutOfRange
  /-- Raised by `step` at the end of the trace: the end of the run (rule R12). Safe. -/
  | traceEnded
  deriving DecidableEq, Repr

/-- The three trigger operations that one step can perform together (rules R72 and R130). -/
inductive Trigger where
  | car
  | edge
  | tick
  deriving DecidableEq, Repr

/-- An order of the three triggers (rule R130: every permutation is a possible behaviour), named by the initials of the triggers
from first to last. -/
inductive Order where
  | cet
  | cte
  | ect
  | etc
  | tce
  | tec
  deriving DecidableEq, Repr

/-- The nine digital IR sensors, `Sensor(1)` to `Sensor(9)` (rule R39). -/
structure Sensors where
  sensor1 : Bool
  sensor2 : Bool
  sensor3 : Bool
  sensor4 : Bool
  sensor5 : Bool
  sensor6 : Bool
  sensor7 : Bool
  sensor8 : Bool
  sensor9 : Bool
  deriving DecidableEq, Repr

/-- What the environment chooses at one step of the block besides the event word. The model fixes none of it: a statement over
all states holds for every choice (log entry 4). -/
structure Inputs where
  /-- The order of simultaneous triggers (rule R130). -/
  order : Order
  /-- The sensor inputs a `REPORT` of this step reads (rule R141). -/
  sensors : Sensors
  /-- How many `SerialTx` of a `REPORT` of this step return within the step (rule R142). -/
  txReady : Nat
  deriving DecidableEq, Repr

/-- The four states of the command parser (rule R36). -/
inductive ParserState where
  | idle
  | sync1
  | highByte
  | lowByte
  deriving DecidableEq, Repr

/-- One item of the schedule the environment presents (rules R11, R142 and R144). -/
inductive Stimulus where
  /-- One step of the block: an event word (rule R70) and the environment's choices at that step. -/
  | event (ew : EventWord) (inputs : Inputs)
  /-- The channel's "transmit buffer empty" condition holds: a waiting `SerialTx` returns (rules R9 and R142). -/
  | txEmpty
  /-- The serial peer adds a byte to the inbound channel (rule R39). -/
  | rxByte (b : Byte)
  /-- The main polling loop is given one iteration (rule R144). -/
  | mainLoop
  deriving DecidableEq, Repr

/-- The machine's state. Every field is plain data. -/
structure State where
  /-- Register 0, `CARRIER_OUT` (rule R21). -/
  carrierOut : Bit
  /-- Register 1, `PULSE_COUNT` (rule R22). -/
  pulseCount : Pulse
  /-- Register 2, `SPEED` (rule R23). -/
  speed : Pulse
  /-- Register 3, `TICK_LO` (rule R24). -/
  tickLo : TickCount
  /-- Register 4, `TICK_HI` (rule R25). -/
  tickHi : TickCount
  /-- The value the output `WINDOW_CLOSED` had during the most recent step of the block (rule R27); no operation reads it
  (log entry 5). -/
  windowClosed : Bool
  /-- `FAULT_OVF`, the model's sticky fault record (rule R35). -/
  faultOvf : Bool
  /-- How many values of `Config.anyPulse` have been drawn; the model's own (log entry 6). -/
  draws : Nat
  /-- `PARSER_STATE` (rule R36). -/
  parser : ParserState
  /-- `DAC_H` (rule R38). -/
  dacH : Byte
  /-- `DAC_L` (rule R38). -/
  dacL : Byte
  /-- The bytes of the running `REPORT` whose `SerialTx` has not returned, first to send first (rule R142). -/
  txPending : List Byte
  /-- The outbound serial sequence: what `SerialTx` has sent, oldest first (rule R39). -/
  txSent : List Byte
  /-- The unfinished step still has a `CAR` to perform when its `REPORT` has finished (rules R130 and R142; log entry 18). -/
  heldCar : Bool
  /-- The unfinished step still has an `EDGE` to perform when its `REPORT` has finished (rules R130 and R142; log entry 18). -/
  heldEdge : Bool
  /-- The inbound serial sequence: what `SerialRx` will return, next first (rule R39). -/
  rxQueue : List Byte
  /-- The environment's choices at the present step of the block; the model's own (log entry 4). -/
  inputs : Inputs
  /-- The part of the trace not yet presented, next first (rules R10 and R12). -/
  trace : List Stimulus
  /-- The OPEN parameters (rule R6), which no step changes (log entry 2). -/
  params : Params
  deriving DecidableEq, Repr

/-- The environment's choices that the reset state names (log entry 4, DESIGN CHOICE): no statement rests on them. -/
def Inputs.initial : Inputs where
  order := .cet
  sensors := ⟨false, false, false, false, false, false, false, false, false⟩
  txReady := Config.packetBytes

/-- The state after reset under given parameters (rules R40 and R41), with nothing left to present. -/
def State.resetWith (p : Params) : State where
  carrierOut := p.carrierInit
  pulseCount := 0#16
  speed := p.speedInit
  tickLo := 0#4
  tickHi := 0#4
  windowClosed := false
  faultOvf := false
  draws := 0
  parser := .idle
  dacH := p.dacInit.extractLsb' 8 8
  dacL := p.dacInit.extractLsb' 0 8
  txPending := []
  txSent := []
  heldCar := false
  heldEdge := false
  rxQueue := []
  inputs := Inputs.initial
  trace := []
  params := p

/-- The machine right after reset, under the suggested parameters (log entry 3). -/
def State.reset : State :=
  State.resetWith Params.suggested

end Sys2Proof.Machine
end

