-- ==== Sys2Proof/Machine/Ops.lean ====
section
/-!
DEFINITION. Reads and writes of the state, bytes of a 16-bit value, and recording the one fault.
The block has no memory (rule R50), no trap entry and no return (rules R176 and R177).
-/

namespace Sys2Proof.Machine

/-! ### Writes, one per piece of state -/

def State.setCarrierOut (s : State) (v : Bit) : State := { s with carrierOut := v }
def State.setPulseCount (s : State) (v : Pulse) : State := { s with pulseCount := v }
def State.setSpeed (s : State) (v : Pulse) : State := { s with speed := v }
def State.setTickLo (s : State) (v : TickCount) : State := { s with tickLo := v }
def State.setTickHi (s : State) (v : TickCount) : State := { s with tickHi := v }
def State.setWindowClosed (s : State) (v : Bool) : State := { s with windowClosed := v }
def State.setFaultOvf (s : State) (v : Bool) : State := { s with faultOvf := v }
def State.setDraws (s : State) (v : Nat) : State := { s with draws := v }
def State.setParser (s : State) (v : ParserState) : State := { s with parser := v }
def State.setDacH (s : State) (v : Byte) : State := { s with dacH := v }
def State.setDacL (s : State) (v : Byte) : State := { s with dacL := v }
def State.setTxPending (s : State) (v : List Byte) : State := { s with txPending := v }
def State.setTxSent (s : State) (v : List Byte) : State := { s with txSent := v }
def State.setHeldCar (s : State) (v : Bool) : State := { s with heldCar := v }
def State.setHeldEdge (s : State) (v : Bool) : State := { s with heldEdge := v }
def State.setRxQueue (s : State) (v : List Byte) : State := { s with rxQueue := v }
def State.setInputs (s : State) (v : Inputs) : State := { s with inputs := v }
def State.setTrace (s : State) (v : List Stimulus) : State := { s with trace := v }

/-! ### The register file by index (rules R8 and R20) -/

/-- The width of register `i`, 0 where there is no such register. -/
def regWidth : Nat → Nat
  | 0 => 1
  | 1 => 16
  | 2 => 16
  | 3 => 4
  | 4 => 4
  | _ => 0

/-- `x[i]` (rule R8). -/
def State.readReg (s : State) : (i : Nat) → BitVec (regWidth i)
  | 0 => s.carrierOut
  | 1 => s.pulseCount
  | 2 => s.speed
  | 3 => s.tickLo
  | 4 => s.tickHi
  | _ + 5 => 0#0

/-- `x[i] <- v` (rule R8). There is no register above 4, and such a write has no bits. -/
def State.writeReg (s : State) : (i : Nat) → BitVec (regWidth i) → State
  | 0, v => s.setCarrierOut v
  | 1, v => s.setPulseCount v
  | 2, v => s.setSpeed v
  | 3, v => s.setTickLo v
  | 4, v => s.setTickHi v
  | _ + 5, _ => s

/-! ### Bytes of a 16-bit value (rules R7 and R51) -/

/-- `v[15:8]`. -/
def highByte (v : BitVec 16) : Byte := v.extractLsb' 8 8

/-- `v[7:0]`. -/
def lowByte (v : BitVec 16) : Byte := v.extractLsb' 0 8

/-- AnalogSetpoint, `DAC_H ++ DAC_L` (rule R38). -/
def State.analogSetpoint (s : State) : Setpoint := s.dacH ++ s.dacL

/-! ### The one fault -/

/-- `any(W_PULSE)`: a value of its own at each use (rule R9). -/
def State.anyPulse (s : State) : Pulse := Config.anyPulse s.draws

/-- `raise PulseOverflow` and what rule R113 does with it: the sticky record is set and `PULSE_COUNT` takes an unconstrained
value. The block goes on (rule R171). -/
def State.raisePulseOverflow (s : State) : State :=
  ((s.setFaultOvf true).setPulseCount s.anyPulse).setDraws (s.draws + 1)

end Sys2Proof.Machine
end

