-- ==== Sys2Proof/Machine/Flags.lean ====
section
/-!
DEFINITION. The conditions one part of the machine signals to another. The block has no status flags (rule R29): there is the
range condition on the tick counters (rules R26 and R34), whether a `REPORT` still runs (rule R142), the output `WINDOW_CLOSED` (rule R27) and the output ports (rule R31).
-/

namespace Sys2Proof.Machine

/-- `out WINDOW_CLOSED <- b` (rule R9): the value the output has for the present step. -/
def State.outWindowClosed (s : State) (b : Bool) : State :=
  s.setWindowClosed b

/-- Both tick counters are in the range 0 to 9 (rule R26). -/
def State.ticksInRange (s : State) : Bool :=
  decide (s.tickLo < Config.tickModLo) && decide (s.tickHi < Config.tickModHi)

/-- The step that began a `REPORT` has not finished: a `SerialTx` of it still waits, or a member of the step waits for them
(rule R142). -/
def State.reportRuns (s : State) : Bool :=
  !s.txPending.isEmpty || s.heldCar || s.heldEdge

/-- A `TICK` of this step has closed the window, its `REPORT` has not finished, and `REPORT_BLOCKS_TRIGGERS` lets no `CAR` and no
`EDGE` come between its `SerialTx` (rule R142, decision D25). -/
def State.reportHolds (s : State) : Bool :=
  s.windowClosed && !s.txPending.isEmpty &&
    match s.params.reportBlocks with
    | .all => true
    | .tickOnly => false

/-- The output ports of the block (rule R31). `PULSE_COUNT`, `TICK_LO` and `TICK_HI` are not ports. -/
structure Outputs where
  carrierOut : Bit
  windowClosed : Bool
  speed : Pulse
  deriving DecidableEq, Repr

/-- What the output ports show after the most recent step of the block: two registers driven continuously, and the output of that
step (rules R27 and R31). Reading them changes nothing (rule R56). -/
def State.outputs (s : State) : Outputs :=
  ⟨s.carrierOut, s.windowClosed, s.speed⟩

end Sys2Proof.Machine
end

