-- ==== Sys2Proof/Machine/Reset.lean ====
section
/-!
DEFINITION. Reset (70_reset_and_hazards.md section 1, with the values of 10_state.md section 7).
-/

namespace Sys2Proof.Machine

/-- The five registers at their reset values (rules R40 and R190); `FAULT_OVF` stays (rule R35). -/
def State.resetBlock (s : State) : State :=
  ((((s.setTickLo 0#4).setTickHi 0#4).setPulseCount 0#16).setSpeed s.params.speedInit).setCarrierOut s.params.carrierInit

/-- The adjacent layer at its reset values (rule R41): the parser idle, the setpoint at `DAC_INIT`, the outbound sequence empty and
no `REPORT` running, so that nothing is left of the step that began one. The inbound channel is the peer's and stays (log entry 9). -/
def State.resetAdjacent (s : State) : State :=
  let s := ((s.setParser .idle).setDacH (highByte s.params.dacInit)).setDacL (lowByte s.params.dacInit)
  (((s.setTxPending []).setTxSent []).setHeldCar false).setHeldEdge false

/-- `RST` (rules R190 and R41). -/
def execRst (s : State) : Host.Outcome State Fault Refusal :=
  .next (s.resetBlock.resetAdjacent.outWindowClosed false)

end Sys2Proof.Machine
end

