-- ==== Sys2Proof/Machine/Carrier.lean ====
section
/-!
DEFINITION. The carrier generator (40_carrier.md).
-/

namespace Sys2Proof.Machine

/-- The toggle of `CAR` (rule R100). -/
def State.toggleCarrier (s : State) : State :=
  s.setCarrierOut (s.carrierOut ^^^ 1#1)

/-- `CAR` (rule R100). -/
def execCar (s : State) : Host.Outcome State Fault Refusal :=
  .next (s.outWindowClosed false).toggleCarrier

end Sys2Proof.Machine
end

