-- ==== Sys2Proof/Machine/EdgeCounter.lean ====
section
/-!
DEFINITION. The pulse-edge counter (41_edge_counter.md).
-/

namespace Sys2Proof.Machine

/-- The overflow case of `EDGE` (rule R113). -/
def State.overflowPulse (s : State) : State :=
  match s.params.ovfMode with
  | .fault => s.raisePulseOverflow
  | .wrap => s.setPulseCount 0#16
  | .saturate => s

/-- The count of `EDGE` (rule R110). -/
def State.countPulse (s : State) : State :=
  if s.pulseCount.toNat < Config.maxPulse then s.setPulseCount (s.pulseCount + 1#16) else s.overflowPulse

/-- `EDGE` (rule R110). -/
def execEdge (s : State) : Host.Outcome State Fault Refusal :=
  .next (s.outWindowClosed false).countPulse

/-- Is a change of the rotation-sensor input from one level to another (high = true) an `EDGE` trigger (rule R111)? -/
def isEdgeTrigger (p : EdgePolarity) (before after : Bool) : Bool :=
  match p with
  | .falling => before && !after
  | .rising => !before && after

/-- What a change of the rotation-sensor input adds to a trace: one event word with `E` set for the qualifying transition, and
no step otherwise (rules R32 and R111). -/
def pinStimuli (before after : Bool) (inputs : Inputs) : List Stimulus :=
  if isEdgeTrigger Config.edgePolarity before after then [.event 0b0010#4 inputs] else []

end Sys2Proof.Machine
end

