-- ==== Sys2Proof/Machine/Operands.lean ====
section
/-!
DEFINITION. What an operation takes from the environment. No operation has an operand (rule R74); a simultaneous form takes the
order of its members (rule R130).
-/

namespace Sys2Proof.Machine

/-- The triggers of an order, first to last. -/
def Order.sequence : Order → List Trigger
  | .cet => [.car, .edge, .tick]
  | .cte => [.car, .tick, .edge]
  | .ect => [.edge, .car, .tick]
  | .etc => [.edge, .tick, .car]
  | .tce => [.tick, .car, .edge]
  | .tec => [.tick, .edge, .car]

/-- The members of a simultaneous form in the order given (rule R130). -/
def Order.restrictedTo (o : Order) (members : List Trigger) : List Trigger :=
  o.sequence.filter fun t => members.contains t

/-- In this order the `EDGE` comes before the `TICK` (`[E<T]`, rules R77 and R130). -/
def Order.edgeBeforeTick : Order → Bool
  | .cet => true
  | .ect => true
  | .etc => true
  | .cte => false
  | .tce => false
  | .tec => false

/-- In this order the `CAR` comes before the `TICK`. -/
def Order.carBeforeTick : Order → Bool
  | .cet => true
  | .cte => true
  | .ect => true
  | .etc => false
  | .tce => false
  | .tec => false

/-- The order with the places of `EDGE` and `TICK` exchanged. -/
def Order.exchangeEdgeTick : Order → Order
  | .cet => .cte
  | .cte => .cet
  | .ect => .tce
  | .tce => .ect
  | .etc => .tec
  | .tec => .etc

/-- The environment's order, made to agree with an order annotation of a written trace (rule R77). The annotation says nothing of
`CAR`, whose place the environment keeps, and without one the whole order is the environment's. -/
def Order.annotated (o : Order) : Option EdgeTickOrder → Order
  | none => o
  | some .edgeFirst => if o.edgeBeforeTick then o else o.exchangeEdgeTick
  | some .tickFirst => if o.edgeBeforeTick then o.exchangeEdgeTick else o

/-- The environment's choices at a step whose item carries an order annotation (rule R77). -/
def Inputs.annotated (x : Inputs) (a : Option EdgeTickOrder) : Inputs :=
  { x with order := x.order.annotated a }

end Sys2Proof.Machine
end

