-- ==== Sys2Proof/Machine/Reporter.lean ====
section
/-!
DEFINITION. The telemetry reporter (30_encoding.md section 4 and 48_adjacent_software.md section 1).
-/

namespace Sys2Proof.Machine

/-- `byte4`: sensor 8 in bit 0, the reserved bits 0 (rules R79 and R80). -/
def Sensors.byte4 (x : Sensors) : Byte :=
  (BitVec.ofBool x.sensor8).setWidth 8

/-- `byte5`: sensor 9 in bit 7, then sensors 1 to 7 in bits 6 to 0 (rule R79). -/
def Sensors.byte5 (x : Sensors) : Byte :=
  BitVec.ofBool x.sensor9 ++ BitVec.ofBool x.sensor1 ++ BitVec.ofBool x.sensor2 ++ BitVec.ofBool x.sensor3
    ++ BitVec.ofBool x.sensor4 ++ BitVec.ofBool x.sensor5 ++ BitVec.ofBool x.sensor6 ++ BitVec.ofBool x.sensor7

/-- The telemetry packet, byte 0 first (rules R78 and R79). -/
def packet (speed : Pulse) (x : Sensors) : List Byte :=
  [Config.tlmSync, Config.tlmSync, highByte speed, lowByte speed, x.byte4, x.byte5]

/-- The waiting `SerialTx` returns: the next byte of the running `REPORT` is sent; nothing where no `REPORT` waits (rule R142). -/
def State.serialTx (s : State) : State :=
  match s.txPending with
  | [] => s
  | b :: bs => (s.setTxPending bs).setTxSent (s.txSent ++ [b])

/-- `n` times `State.serialTx`. -/
def State.serialTxTimes (s : State) : Nat → State
  | 0 => s
  | n + 1 => s.serialTx.serialTxTimes n

/-- `REPORT` (rule R140): the packet is assembled from `SPEED` and the sensors, and its six `SerialTx` begin; those for which the
channel is ready return within the step, the others wait (rule R142). -/
def State.report (s : State) : State :=
  (s.setTxPending (s.txPending ++ packet s.speed s.inputs.sensors)).serialTxTimes s.inputs.txReady

end Sys2Proof.Machine
end

