-- ==== Sys2Proof/Machine/Timebase.lean ====
section
/-!
DEFINITION. The cascaded timebase divider: `TICK` with its `CAPTURE`, and `NOP` (42_timebase.md).
-/

namespace Sys2Proof.Machine

/-- The two cascaded counters of `TICK`, and whether the window closed: the local `wc` of rule R120.
Two counters and not one counter modulo 100 (rule R125). -/
def State.advanceCounters (s : State) : State × Bool :=
  let s := s.setTickLo (s.tickLo + 1#4)
  if s.tickLo = Config.tickModLo then
    let s := s.setTickLo 0#4
    let s := s.setTickHi (s.tickHi + 1#4)
    if s.tickHi = Config.tickModHi then (s.setTickHi 0#4, true) else (s, false)
  else (s, false)

/-- `CAPTURE` (rule R123): snapshot first, then reset, indivisible. -/
def State.capture (s : State) : State :=
  (s.setSpeed s.pulseCount).setPulseCount 0#16

/-- The transmit step of the reporter, entered on every `TICK`, acting only when that `TICK` closed the window (rule R124). -/
def State.transmitStep (s : State) (wc : Bool) : State :=
  if wc then s.capture.report else s

/-- The whole of `TICK` in a state whose counters are in range (rule R120). -/
def State.tick (s : State) : State :=
  let r := s.advanceCounters
  (r.1.outWindowClosed r.2).transmitStep r.2

/-- `TICK`, refused in the states for which the spec gives the counters no behaviour (rule R34). -/
def tickStep (s : State) : Host.Outcome State Fault Refusal :=
  if s.ticksInRange then .next s.tick else .refused .tickCounterOutOfRange

/-- `TICK` (rule R120). -/
def execTick (s : State) : Host.Outcome State Fault Refusal :=
  tickStep s

/-- `NOP` (rule R129). -/
def execNop (s : State) : Host.Outcome State Fault Refusal :=
  .next (s.outWindowClosed false)

end Sys2Proof.Machine
end

