-- ==== Sys2Proof/Machine/Simultaneous.lean ====
section
/-!
DEFINITION. Two or three triggers in one step (42_timebase.md section 6).
-/

namespace Sys2Proof.Machine

/-- One member of a simultaneous form. `WINDOW_CLOSED` is written by the `TICK` alone, so that the step's value is the `wc` of the
`TICK` among the members (rule R130). -/
def perform (t : Trigger) (s : State) : Host.Outcome State Fault Refusal :=
  match t with
  | .car => .next s.toggleCarrier
  | .edge => .next s.countPulse
  | .tick => tickStep s

/-- The members one after another (rule R130), each at once after the one before it, as in the block alone
(rule R142). What a `REPORT` in progress does to the members ordered after its `TICK` is settled in `simultaneous` (DESIGN CHOICE, log
entry 18). -/
def performAll : List Trigger → State → Host.Outcome State Fault Refusal
  | [], s => .next s
  | t :: ts, s =>
    match perform t s with
    | .next s' => performAll ts s'
    | .fault r => .fault r
    | .refused r => .refused r

/-- The members of a step up to its `TICK`, or all where there is none. -/
def throughTick : List Trigger → List Trigger
  | [] => []
  | .tick :: _ => [.tick]
  | .car :: ts => .car :: throughTick ts
  | .edge :: ts => .edge :: throughTick ts

/-- The members of a step after its `TICK`. -/
def afterTick : List Trigger → List Trigger
  | [] => []
  | .tick :: ts => ts
  | .car :: ts => afterTick ts
  | .edge :: ts => afterTick ts

/-- The `CAR` and the `EDGE` among the members wait until the `REPORT` has finished. Their order need not be kept: they commute
(rule R102). -/
def State.hold (s : State) (members : List Trigger) : State :=
  (s.setHeldCar (s.heldCar || members.contains .car)).setHeldEdge (s.heldEdge || members.contains .edge)

/-- The members that waited are performed. -/
def State.performHeld (s : State) : State :=
  let afterCar := if s.heldCar then s.toggleCarrier else s
  let afterEdge := if s.heldEdge then afterCar.countPulse else afterCar
  (afterEdge.setHeldCar false).setHeldEdge false

/-- A waiting `SerialTx` returns (rule R142). With the last one the `REPORT`, and with it the `TICK`, has finished, and the members
that waited for it take their turn. -/
def State.serialTxReturns (s : State) : State :=
  let sent := s.serialTx
  if sent.txPending.isEmpty then sent.performHeld else sent

/-- A simultaneous form: each member once, in the order the environment chose for this step (rule R130). While the `REPORT` of a
closing `TICK` has not finished, the `TICK` has not finished (rule R142); what its waiting `SerialTx` do to the members ordered
after it no rule says (DESIGN CHOICE, log entry 18): under `REPORT_BLOCKS_TRIGGERS` = `all` these members wait for the last
`SerialTx`, under `tick_only` they are performed at once, before the waiting `SerialTx`. -/
def simultaneous (members : List Trigger) (s : State) : Host.Outcome State Fault Refusal :=
  let order := s.inputs.order.restrictedTo members
  match performAll (throughTick order) (s.outWindowClosed false) with
  | .next t => if t.reportHolds then .next (t.hold (afterTick order)) else performAll (afterTick order) t
  | .fault r => .fault r
  | .refused r => .refused r

/-- `SIM.CE` (rule R130). -/
def execSimCE (s : State) : Host.Outcome State Fault Refusal :=
  simultaneous [.car, .edge] s

/-- `SIM.CT` (rule R130). -/
def execSimCT (s : State) : Host.Outcome State Fault Refusal :=
  simultaneous [.car, .tick] s

/-- `SIM.ET` (rule R130). -/
def execSimET (s : State) : Host.Outcome State Fault Refusal :=
  simultaneous [.edge, .tick] s

/-- `SIM.CET` (rule R130). -/
def execSimCET (s : State) : Host.Outcome State Fault Refusal :=
  simultaneous [.car, .edge, .tick] s

end Sys2Proof.Machine
end

