-- ==== Sys2Proof/Machine/Dispatch.lean ====
section
/-!
DEFINITION. The meaning of each operation of rule R71.
-/

namespace Sys2Proof.Machine

def exec (i : Instr) (s : State) : Host.Outcome State Fault Refusal :=
  match i with
  | .nop => Sys2Proof.Machine.execNop s
  | .car => Sys2Proof.Machine.execCar s
  | .edge => Sys2Proof.Machine.execEdge s
  | .simCE => Sys2Proof.Machine.execSimCE s
  | .tick => Sys2Proof.Machine.execTick s
  | .simCT => Sys2Proof.Machine.execSimCT s
  | .simET => Sys2Proof.Machine.execSimET s
  | .simCET => Sys2Proof.Machine.execSimCET s
  | .rst => Sys2Proof.Machine.execRst s

end Sys2Proof.Machine
end

