-- ==== Sys2Proof/Machine/Parser.lean ====
section
/-!
DEFINITION. The command parser and the main polling loop that runs it (48_adjacent_software.md section 2).
-/

namespace Sys2Proof.Machine

/-- `RXBYTE(b)`, one step of the parser in each of its states (rules R145 to R149). -/
def State.rxByte (s : State) (b : Byte) : State :=
  match s.parser with
  | .idle => if b = Config.cmdMarker then s.setParser .sync1 else s.setParser .idle
  | .sync1 => if b = Config.cmdMarker then s.setParser .highByte else s.setParser .idle
  | .highByte => (s.setDacH b).setParser .lowByte
  | .lowByte => (s.setDacL b).setParser .idle

/-- The parser fed a sequence of bytes. -/
def State.rxBytes (s : State) (bs : List Byte) : State :=
  bs.foldl State.rxByte s

/-- One iteration of the main polling loop (rule R144). It makes no progress while a `REPORT` waits in the tick context
(rule R153), and waits while no byte is available (rules R9 and R144). -/
def State.mainLoop (s : State) : State :=
  if s.reportRuns then s
  else
    match s.rxQueue with
    | [] => s
    | b :: bs => (s.setRxQueue bs).rxByte b

end Sys2Proof.Machine
end

