-- ==== Sys2Proof/Machine/Schedule.lean ====
section
/-!
DEFINITION. What one item of the environment's schedule does (rules R11, R71, R142 and R144), and the schedule a written trace
stands for (rule R77).
-/

namespace Sys2Proof.Machine

/-- Does a `REPORT` that is still transmitting exclude this event word (rule R142, decision D25)? `RST` and `NOP` are excluded by
neither value of `REPORT_BLOCKS_TRIGGERS`. -/
def State.reportExcludes (s : State) (ew : EventWord) : Bool :=
  s.reportRuns && !EventWord.rst ew &&
    match s.params.reportBlocks with
    | .all => EventWord.c ew || EventWord.e ew || EventWord.t ew
    | .tickOnly => EventWord.t ew

/-- One step of the block: decode the event word and perform the operation of the row (rule R71). -/
def deliverEvent (ew : EventWord) (inputs : Inputs) (s : State) : Host.Outcome State Fault Refusal :=
  if s.reportExcludes ew then .fault .reportStalled else exec (decode ew) (s.setInputs inputs)

/-- The effect of one item of the schedule. -/
def deliver (x : Stimulus) (s : State) : Host.Outcome State Fault Refusal :=
  match x with
  | .event ew inputs => deliverEvent ew inputs s
  | .txEmpty => .next s.serialTxReturns
  | .rxByte b => .next (s.setRxQueue (s.rxQueue ++ [b]))
  | .mainLoop => .next s.mainLoop

/-- The remaining `SerialTx` of a running `REPORT` all return, and the step that began it finishes. -/
def State.finishReport (s : State) : State :=
  ((s.setTxSent (s.txSent ++ s.txPending)).setTxPending []).performHeld

/-- The state with an event word placed so that the next step presents it, under the state's own environment choices. A running
`REPORT` that would exclude the word is completed first (log entry 14). -/
def State.placeEvent (s : State) (ew : EventWord) : State :=
  let ready := if s.reportExcludes ew then s.finishReport else s
  ready.setTrace (.event ew s.inputs :: s.trace)

/-! ### A written trace as a schedule (rule R77) -/

/-- The items of a written trace's steps from step `n` on: each step presents the operation's event word, under the environment's
choices `env` at that step, whose order the step's annotation overrides where it has one. -/
def scheduleFrom (env : Nat → Inputs) (n : Nat) : List (Instr × Option EdgeTickOrder) → List Stimulus
  | [] => []
  | (i, a) :: rest => .event (encode i) ((env n).annotated a) :: scheduleFrom env (n + 1) rest

/-- The schedule a written trace stands for (rule R77). -/
def scheduleOf (env : Nat → Inputs) (t : Trace) : List Stimulus :=
  scheduleFrom env 0 t.expand

/-- The state with a written trace as what is next presented to it. -/
def State.load (s : State) (env : Nat → Inputs) (t : Trace) : State :=
  s.setTrace (scheduleOf env t)

/-- The same from the trace's text; `none` where the text is no well-formed trace. -/
def State.loadText (s : State) (env : Nat → Inputs) (text : List Char) : Option State :=
  (readTrace text).map (s.load env)

end Sys2Proof.Machine
end

