-- ==== Sys2Proof/Machine/Step.lean ====
section
/-!
DEFINITION. One step of the machine: the next item of the trace (rules R10 and R12).
-/

namespace Sys2Proof.Machine

/-- The machine takes the next item of its trace; at the end of the trace the run ends (rule R12). -/
def step (s : State) : Host.Outcome State Fault Refusal :=
  match s.trace with
  | [] => .refused .traceEnded
  | x :: rest => deliver x (s.setTrace rest)

/-- The state with the event word `w` placed as the next item of its trace. -/
def State.withFetchWord (s : State) (_nbits w : Nat) : State :=
  s.placeEvent (BitVec.ofNat 4 w)

end Sys2Proof.Machine
end

