-- ==== Sys2Proof/Safety.lean ====
section
/-!
DEFINITION. What claims speak of: runs, what a trace asks for, the windows of a run, and the invariant of the machine.
-/

namespace Sys2Proof.Machine

/-! ### What an item of the trace asks for -/

/-- Does the item perform the trigger's operation? A reset word performs none (rule R73). -/
def Stimulus.performs (t : Trigger) : Stimulus → Bool
  | .event ew _ =>
    !EventWord.rst ew &&
      match t with
      | .car => EventWord.c ew
      | .edge => EventWord.e ew
      | .tick => EventWord.t ew
  | .txEmpty => false
  | .rxByte _ => false
  | .mainLoop => false

/-- Is the item a reset of the block? -/
def Stimulus.resets : Stimulus → Bool
  | .event ew _ => EventWord.rst ew
  | .txEmpty => false
  | .rxByte _ => false
  | .mainLoop => false

/-- Is the item a step of the block, and not one of the adjacent layer? -/
def Stimulus.ofBlock : Stimulus → Bool
  | .event _ _ => true
  | .txEmpty => false
  | .rxByte _ => false
  | .mainLoop => false

/-- Is the channel ready for a whole packet within the step (rule R142)? -/
def Stimulus.channelReady : Stimulus → Bool
  | .event _ inputs => decide (Config.packetBytes ≤ inputs.txReady)
  | .txEmpty => true
  | .rxByte _ => true
  | .mainLoop => true

/-- How often the operation of a trigger is performed by the items, alone or inside simultaneous forms. -/
def timesPerformed (t : Trigger) (xs : List Stimulus) : Nat :=
  xs.countP (Stimulus.performs t)

/-- No item is a reset. -/
def noReset (xs : List Stimulus) : Bool :=
  xs.all fun x => !x.resets

/-- Does the operation perform the trigger's operation (rules R72 and R130)? -/
def performedBy (t : Trigger) : Instr → Bool
  | .nop => false
  | .car => t = .car
  | .edge => t = .edge
  | .simCE => t ≠ .tick
  | .tick => t = .tick
  | .simCT => t ≠ .edge
  | .simET => t ≠ .car
  | .simCET => true
  | .rst => false

/-- No member of an unfinished step waits. -/
abbrev State.nothingHeld (s : State) : Prop :=
  s.heldCar = false ∧ s.heldEdge = false

/-! ### Runs -/

/-- Operations one after another, stopping at the first fault or refusal. -/
def execAll : List Instr → State → Host.Outcome State Fault Refusal
  | [], s => .next s
  | i :: is, s =>
    match exec i s with
    | .next t => execAll is t
    | .fault r => .fault r
    | .refused r => .refused r

/-- An outcome whose next state has the output `WINDOW_CLOSED` at 0. -/
def outputCleared : Host.Outcome State Fault Refusal → Host.Outcome State Fault Refusal
  | .next t => .next (t.outWindowClosed false)
  | .fault r => .fault r
  | .refused r => .refused r

/-- `k` steps, stopping at the first fault or refusal. -/
def run : Nat → State → Host.Outcome State Fault Refusal
  | 0, s => .next s
  | k + 1, s =>
    match step s with
    | .next t => run k t
    | .fault r => .fault r
    | .refused r => .refused r

/-- Does this step close a window: is it a step of the block in which `WINDOW_CLOSED` was 1? -/
def State.closesInto (s t : State) : Bool :=
  match s.trace with
  | [] => false
  | x :: _ => x.ofBlock && t.windowClosed

/-- The number of steps among the first `k` in which `WINDOW_CLOSED` was 1 (rule R126). -/
def windowsIn : Nat → State → Nat
  | 0, _ => 0
  | k + 1, s =>
    match step s with
    | .next t => (if s.closesInto t then 1 else 0) + windowsIn k t
    | .fault _ => 0
    | .refused _ => 0

/-- The sum of the values `SPEED` took at the window-closed events among the first `k` steps. -/
def capturedIn : Nat → State → Nat
  | 0, _ => 0
  | k + 1, s =>
    match step s with
    | .next t => (if s.closesInto t then t.speed.toNat else 0) + capturedIn k t
    | .fault _ => 0
    | .refused _ => 0

/-! ### The invariant -/

/-- A whole number of telemetry packets: each begins with two synchronisation bytes, and bits 7 to 1 of its byte 4 are 0
(rules R78 to R80). -/
def isPacketStream : List Byte → Bool
  | [] => true
  | b0 :: b1 :: _ :: _ :: b4 :: _ :: rest =>
    b0 == Config.tlmSync && b1 == Config.tlmSync && b4.extractLsb' 1 7 == 0#7 && isPacketStream rest
  | _ => false

/-- What every step keeps: the tick counters are in 0 to 9 (rule R26), at most one packet waits for the serial channel, what
was sent followed by what waits is a whole number of packets (rules R78, R80 and R142), and a member of a step waits only under
`REPORT_BLOCKS_TRIGGERS` = `all` and behind a waiting byte (rule R142, log entry 18). -/
def State.Inv (s : State) : Prop :=
  s.ticksInRange = true ∧ s.txPending.length ≤ Config.packetBytes ∧ isPacketStream (s.txSent ++ s.txPending) = true ∧
    (s.nothingHeld ∨ s.params.reportBlocks = .all ∧ s.txPending ≠ [])

/-! ### What the block can see -/

/-- Two states the block cannot tell apart: equal in the five registers, the output, the fault record, the free-value counter, the
order of simultaneous triggers and the parameters. They may differ in the whole adjacent layer, the sensors, the channel's
readiness and the trace. -/
def State.sameBlock (s t : State) : Prop :=
  s.carrierOut = t.carrierOut ∧ s.pulseCount = t.pulseCount ∧ s.speed = t.speed ∧ s.tickLo = t.tickLo ∧ s.tickHi = t.tickHi ∧
    s.windowClosed = t.windowClosed ∧ s.faultOvf = t.faultOvf ∧ s.draws = t.draws ∧
    s.inputs.order = t.inputs.order ∧ s.params = t.params

/-- Outcomes the block cannot tell apart once the members that wait for a `REPORT` have been performed. -/
def sameOutcome : Host.Outcome State Fault Refusal → Host.Outcome State Fault Refusal → Prop
  | .next s, .next t => s.performHeld.sameBlock t.performHeld
  | .fault a, .fault b => a = b
  | .refused a, .refused b => a = b
  | _, _ => False

end Sys2Proof.Machine
end

