-- ==== Sys2Proof/Certificates/Slice0/Obligations.lean ====
section
/-!
DEFINITION. The statements about the machine, for the provers. Each docstring names what of the spec the statement formalises.
A register's index, a parameter and an environment's choice are quantified over; no statement rests on a value the model chose
at reset.
-/

open Sys2Proof Sys2Proof.Machine

/-! ### Event words -/

/-- The decode table of rule R71, all 16 words. -/
def Obligations.DecodeOfEveryEventWord : Prop :=
  [0b0000#4, 0b0001#4, 0b0010#4, 0b0011#4, 0b0100#4, 0b0101#4, 0b0110#4, 0b0111#4].map decode =
      [.nop, .car, .edge, .simCE, .tick, .simCT, .simET, .simCET] ∧
    [0b1000#4, 0b1001#4, 0b1010#4, 0b1011#4, 0b1100#4, 0b1101#4, 0b1110#4, 0b1111#4].map decode = List.replicate 8 .rst

/-- Decoding and encoding agree, both ways; the words 9 to F are never emitted (rules R71 and R77). -/
def Obligations.DecodeEncodeAgree : Prop :=
  (∀ i : Instr, decode (encode i) = i ∧ EventWord.emitted (encode i) = true) ∧
    ∀ w : EventWord, EventWord.emitted w = true → encode (decode w) = w

/-- A sequence of operations laid out as bytes, one event word a byte, decodes to itself, whatever its length. -/
def Obligations.EncodedBytesDecodeBack : Prop :=
  ∀ is : List Instr, decodeBytes (encodeBytes is) = .ok is ∧ (encodeBytes is).length = is.length

/-- Expansion and assembly of a written trace (the table of rule R77): the assembled words decode to the operations of the
expansion and are the words the assembler emits; `*n` repeats, and the pseudo-operations are the `TICK`s and `EDGE`s named. -/
def Obligations.WrittenTraceExpandsAndAssembles : Prop :=
  (∀ t : Trace, t.assemble.map decode = t.expand.map Prod.fst ∧ ∀ w ∈ t.assemble, EventWord.emitted w = true) ∧
    (∀ (t : Trace) (n : Nat), (Trace.times t n).expand = (List.replicate n t.expand).flatten) ∧
    (∀ a b : Trace, (Trace.seq a b).expand = a.expand ++ b.expand) ∧
    Trace.window.expand = List.replicate 100 (.tick, none) ∧
    Trace.decade.expand = List.replicate 10 (.tick, none) ∧
    ∀ n : Nat, (Trace.pulses n).expand = List.replicate n (.edge, none)

/-- The order annotation of rule R77 is not part of the encoding. That no form but `SIM.ET` and `SIM.CET` may carry one is the model's
choice (log entry 17): rule R77 says only that a form whose outcome depends on order may be annotated. -/
def Obligations.OrderAnnotationsOfWrittenTraces : Prop :=
  ∀ (i : Instr) (o : EdgeTickOrder),
    ((Trace.op i (some o)).wellFormed = true ↔ i = .simET ∨ i = .simCET) ∧
      (Trace.op i (some o)).assemble = (Trace.op i none).assemble

/-- The schedule a written trace stands for (rule R77): one item per operation of its expansion, which presents the operation's word
under the environment's choices; an annotation chooses between `EDGE` then `TICK` and `TICK` then `EDGE`, and without one the order is
the environment's. Rule R77 says nothing of the rest of an annotated step: that `CAR` keeps the place the environment gave it, so that an
annotation which agrees with the environment's order leaves it whole, and that the sensors and the channel's readiness stay the
environment's, is the model's choice (log entry 17). -/
def Obligations.AnnotationsChooseTheOrder : Prop :=
  ∀ (env : Nat → Inputs) (t : Trace),
    (scheduleOf env t).length = t.expand.length ∧
    ∀ (n : Nat) (i : Instr) (a : Option EdgeTickOrder), t.expand[n]? = some (i, a) →
      ∃ o : Order, (scheduleOf env t)[n]? = some (.event (encode i) { env n with order := o }) ∧
        (a = none → o = (env n).order) ∧ (a = some .edgeFirst → o.edgeBeforeTick = true) ∧
        (a = some .tickFirst → o.edgeBeforeTick = false) ∧
        (∀ x, a = some x → (x = .edgeFirst ↔ (env n).order.edgeBeforeTick = true) → o = (env n).order) ∧
        o.sequence.idxOf .car = (env n).order.sequence.idxOf .car

/-- `SIM.ET[E<T]` means `EDGE` then `TICK` and `SIM.ET[T<E]` means `TICK` then `EDGE` (rule R77), whatever order the environment would
have chosen: an annotated form, written and presented next, is performed in the order written; the second part is the worked example
of rule R130 for any count, for `SIM.CET` too. When an `EDGE` written after the `TICK` is performed is log entry 18. -/
def Obligations.AnnotatedFormsRunInTheOrderWritten : Prop :=
  ∀ (env : Nat → Inputs) (x : EdgeTickOrder), ∀ i ∈ [Instr.simET, .simCET], ∀ s : State, s.reportRuns = false →
    (∃ o : Order, o.edgeBeforeTick = decide (x = .edgeFirst) ∧
      step (s.load env (.op i (some x))) = exec i { s with trace := [], inputs := { env 0 with order := o } }) ∧
    (s.tickLo = 9#4 → s.tickHi = 9#4 → s.pulseCount.toNat < 65535 →
      ∃ t, step (s.load env (.op i (some x))) = .next t ∧ t.windowClosed = true ∧
        t.speed = (if x = .edgeFirst then s.pulseCount + 1#16 else s.pulseCount) ∧
        t.performHeld.pulseCount = (if x = .edgeFirst then 0#16 else 1#16))

/-! ### One step -/

/-- The step function of rule R71: when the trace presents an event word that no running report excludes, the step is the
decoded operation, under the environment's choices that come with the word, on the rest of the trace. -/
def Obligations.StepRunsTheDecodedOperation : Prop :=
  ∀ (s : State) (ew : EventWord) (inputs : Inputs) (rest : List Stimulus),
    s.trace = .event ew inputs :: rest → s.reportExcludes ew = false →
      step s = exec (decode ew) { s with trace := rest, inputs := inputs }

/-- A word placed for the next step is the operation the next step performs, on the state it was placed in. -/
def Obligations.PlacedWordIsTheNextOperation : Prop :=
  ∀ (s : State) (nbits w : Nat) (i : Instr),
    decodeTableWord nbits w = some i → s.reportExcludes (BitVec.ofNat 4 w) = false →
      step (s.withFetchWord nbits w) = exec i s

/-- Rule R73: reset dominates; the triggers in the same word are discarded, not deferred. -/
def Obligations.ResetWordDiscardsItsTriggers : Prop :=
  ∀ (s : State) (ew : EventWord) (inputs : Inputs) (rest : List Stimulus),
    s.trace = .event ew inputs :: rest → ew.getLsbD 3 = true →
      step s = exec .rst { s with trace := rest, inputs := inputs } ∧ ∃ t, step s = .next t ∧ t.trace = rest

/-- Which event words a running `REPORT` excludes (rule R142, OPEN parameter of decision D25). The stop is the model's way of saying that
the machine has no such schedule (log entry 10). -/
def Obligations.RunningReportExcludesTriggers : Prop :=
  ∀ (s : State) (ew : EventWord) (inputs : Inputs) (rest : List Stimulus),
    s.trace = .event ew inputs :: rest →
      (step s = .fault .reportStalled ↔
        (s.txPending ≠ [] ∨ s.heldCar = true ∨ s.heldEdge = true) ∧ ew.getLsbD 3 = false ∧
          (ew.getLsbD 2 = true ∨
            s.params.reportBlocks = .all ∧ (ew.getLsbD 1 = true ∨ ew.getLsbD 0 = true)))

/-- A run ends where its finite trace ends (rule R12), and only there: every other step takes exactly one item and leaves the
parameters as they are. -/
def Obligations.StepTakesOneItemOfTheTrace : Prop :=
  (∀ s : State, step s = .refused .traceEnded ↔ s.trace = []) ∧
    ∀ s t : State, step s = .next t → (∃ x, s.trace = x :: t.trace) ∧ t.params = s.params

/-! ### The operations -/

/-- `NOP` (rule R129). -/
def Obligations.NopOnlyClearsTheOutput : Prop :=
  decode 0b0000#4 = .nop ∧ ∀ s : State, exec .nop s = .next { s with windowClosed := false }

/-- `CAR` (rule R100), alone and inside the simultaneous forms that hold it, where it is performed within the step; that it is performed
later where a `REPORT` holds it is `Obligations.MembersAfterAClosingTickWait`. -/
def Obligations.CarTogglesTheCarrier : Prop :=
  decode 0b0001#4 = .car ∧
    (∀ s : State, exec .car s = .next { s with carrierOut := s.carrierOut ^^^ 1#1, windowClosed := false }) ∧
    ∀ i ∈ [Instr.simCE, .simCT, .simCET], ∀ s t : State, exec i s = .next t → t.heldCar = false →
      t.carrierOut = s.carrierOut ^^^ 1#1

/-- `EDGE` below the overflow case (rule R110). -/
def Obligations.EdgeAddsOneBelowTheMaximum : Prop :=
  decode 0b0010#4 = .edge ∧
    ∀ s : State, s.pulseCount.toNat < 65535 →
      exec .edge s = .next { s with pulseCount := s.pulseCount + 1#16, windowClosed := false } ∧
        (s.pulseCount + 1#16).toNat = s.pulseCount.toNat + 1

/-- `EDGE` in the overflow case, under each value of `OVF_MODE` (the table of rule R113, an OPEN parameter): under `fault` the
count is `any`, the free value that `anyPulse` names and nothing constrains. -/
def Obligations.EdgeAtTheMaximumFollowsOvfMode : Prop :=
  ∀ s : State, s.pulseCount = 65535#16 →
    exec .edge s = .next
      (match s.params.ovfMode with
        | .fault =>
          { s with pulseCount := s.anyPulse, faultOvf := true, draws := s.draws + 1, windowClosed := false }
        | .wrap => { s with pulseCount := 0#16, windowClosed := false }
        | .saturate => { s with windowClosed := false })

/-- `TICK` in the 99 positions that close no window (rules R120 and R121). -/
def Obligations.TickAdvancesTheCascade : Prop :=
  decode 0b0100#4 = .tick ∧
    ∀ s : State, s.tickLo.toNat ≤ 9 → s.tickHi.toNat ≤ 9 →
      (s.tickLo.toNat < 9 → exec .tick s = .next { s with tickLo := s.tickLo + 1#4, windowClosed := false }) ∧
      (s.tickLo.toNat = 9 → s.tickHi.toNat < 9 →
        exec .tick s = .next { s with tickLo := 0#4, tickHi := s.tickHi + 1#4, windowClosed := false })

/-- `TICK` from (9, 9) (rules R120, R123, R124 and R140): the window closes, the count is captured and cleared, and the packet
of the captured count joins the outbound sequence, its first `txReady` bytes within the step. -/
def Obligations.TickClosesTheWindowAndCaptures : Prop :=
  ∀ s : State, s.tickLo = 9#4 → s.tickHi = 9#4 →
    exec .tick s = .next
      { s with
        tickLo := 0#4, tickHi := 0#4, windowClosed := true, speed := s.pulseCount, pulseCount := 0#16
        txSent := s.txSent ++ (s.txPending ++ packet s.pulseCount s.inputs.sensors).take s.inputs.txReady
        txPending := (s.txPending ++ packet s.pulseCount s.inputs.sensors).drop s.inputs.txReady }

/-- The counter values 10 to 15 are refused by every operation that holds a `TICK` (rule R34), and by no other. -/
def Obligations.TickRefusesUnreachableCounters : Prop :=
  ∀ (i : Instr) (s : State),
    exec i s = .refused .tickCounterOutOfRange ↔
      i ∈ [Instr.tick, .simCT, .simET, .simCET] ∧ ¬(s.tickLo.toNat ≤ 9 ∧ s.tickHi.toNat ≤ 9)

/-- `SIM.CE` (rule R130): `CAR` and `EDGE` once each, one outcome whatever the order (rule R131). -/
def Obligations.SimCEIsCarAndEdge : Prop :=
  ∀ s : State,
    exec .simCE s = exec .edge { s with carrierOut := s.carrierOut ^^^ 1#1 } ∧ (∃ t, exec .simCE s = .next t) ∧
      (s.pulseCount.toNat < 65535 →
        exec .simCE s = .next
          { s with carrierOut := s.carrierOut ^^^ 1#1, pulseCount := s.pulseCount + 1#16, windowClosed := false })

/-- `SIM.CT` (rule R130): `CAR` and `TICK` once each, one outcome whatever the order (rule R131), but for a `CAR` after a `TICK` whose
`REPORT` holds it, which is still to be performed (log entry 18, the model's choice). -/
def Obligations.SimCTIsCarAndTick : Prop :=
  ∀ s : State, s.tickLo.toNat ≤ 9 → s.tickHi.toNat ≤ 9 →
    ∃ t, exec .tick s = .next t ∧
      exec .simCT s = .next
        (if t.reportHolds = true ∧ s.inputs.order.carBeforeTick = false then { t with heldCar := true }
        else { t with carrierOut := s.carrierOut ^^^ 1#1 })

/-- `SIM.ET` (rule R130): `EDGE` and `TICK` once each in the order the environment chose; `WINDOW_CLOSED` is the `wc` of the
`TICK`. An `EDGE` after a `TICK` whose `REPORT` holds it is still to be performed (log entry 18, the model's choice). -/
def Obligations.SimETIsEdgeAndTickInTheChosenOrder : Prop :=
  ∀ s : State, s.tickLo.toNat ≤ 9 → s.tickHi.toNat ≤ 9 →
    (s.inputs.order.edgeBeforeTick = true →
      ∃ u t, exec .edge s = .next u ∧ exec .tick u = .next t ∧ exec .simET s = .next t) ∧
    (s.inputs.order.edgeBeforeTick = false →
      ∃ u t, exec .tick s = .next u ∧ exec .edge u = .next t ∧
        exec .simET s = .next
          (if u.reportHolds = true then { u with heldEdge := true } else { t with windowClosed := u.windowClosed }))

/-- `SIM.CET` (rules R130 and R131): the outcome of `SIM.ET` with the carrier toggled, or still to be toggled where a `REPORT` holds the
`CAR` (log entry 18, the model's choice). -/
def Obligations.SimCETIsSimETWithTheCarrierToggled : Prop :=
  ∀ s : State, s.tickLo.toNat ≤ 9 → s.tickHi.toNat ≤ 9 →
    ∃ t, exec .simET s = .next t ∧
      exec .simCET s = .next
        (if t.reportHolds = true ∧ s.inputs.order.carBeforeTick = false then { t with heldCar := true }
        else { t with carrierOut := s.carrierOut ^^^ 1#1 })

/-- The orders a step can take are exactly the permutations of its members (rule R130). -/
def Obligations.EveryOrderOfTheMembersIsAdmitted : Prop :=
  ∀ members ∈ [[Trigger.car, .edge], [.car, .tick], [.edge, .tick], [.car, .edge, .tick]], ∀ l : List Trigger,
    (∃ o : Order, o.restrictedTo members = l) ↔ l.Perm members

/-- An edge that coincides with the closing tick is counted exactly once, before or after the capture (rules R115 and R130, with
the worked example of R130 as the instance `PULSE_COUNT` = 4); an `EDGE` that waits for the `REPORT` (log entry 18) counts once the
`REPORT` has finished. -/
def Obligations.EdgeWithTheClosingTickIsCountedOnce : Prop :=
  ∀ i ∈ [Instr.simET, .simCET], ∀ s : State,
    s.nothingHeld → s.tickLo = 9#4 → s.tickHi = 9#4 → s.pulseCount.toNat < 65535 →
      ∃ t, exec i s = .next t ∧ t.windowClosed = true ∧ t.tickLo = 0#4 ∧ t.tickHi = 0#4 ∧
        t.speed = (if s.inputs.order.edgeBeforeTick then s.pulseCount + 1#16 else s.pulseCount) ∧
        t.performHeld.pulseCount = (if s.inputs.order.edgeBeforeTick then 0#16 else 1#16)

/-- When a member of a form waits for a `REPORT` (log entry 18, the model's choice, from rule R142 and decision D25): exactly where it is
ordered after the `TICK`, the `TICK` closed the window, a byte of its `REPORT` waits, and `REPORT_BLOCKS_TRIGGERS` is `all`. Until it is
performed, its register keeps the value the members before it left. -/
def Obligations.MembersAfterAClosingTickWait : Prop :=
  ∀ (i : Instr) (s t : State), i ≠ .rst → s.nothingHeld → exec i s = .next t →
    let holds := t.windowClosed = true ∧ t.txPending ≠ [] ∧ s.params.reportBlocks = .all
    (t.heldCar = true ↔ performedBy .car i = true ∧ s.inputs.order.carBeforeTick = false ∧ holds) ∧
    (t.heldEdge = true ↔ performedBy .edge i = true ∧ s.inputs.order.edgeBeforeTick = false ∧ holds) ∧
    (t.heldCar = true → t.carrierOut = s.carrierOut) ∧ (t.heldEdge = true → t.pulseCount = 0#16)

/-- A member that waits is delayed and nothing else (rules R57, R102 and R130): with what is held performed in the states before and
after, each step of the block performs the members of its word in the step's order, as in the block alone (rule R142), whatever the
channel and `REPORT_BLOCKS_TRIGGERS`. -/
def Obligations.HeldMembersAreOnlyDelayed : Prop :=
  ∀ (s t : State) (ew : EventWord) (inputs : Inputs) (rest : List Stimulus),
    s.trace = .event ew inputs :: rest → ew.getLsbD 3 = false → step s = .next t →
      performAll (inputs.order.sequence.filter fun x => performedBy x (decode ew))
          { s.performHeld with trace := rest, inputs := inputs, windowClosed := false } =
        .next t.performHeld

/-- `EDGE` and `TICK` commute exactly where the `TICK` closes no window (rules R57 and R131). -/
def Obligations.EdgeAndTickCommuteExactlyOffTheWindowEnd : Prop :=
  ∀ s : State, s.tickLo.toNat ≤ 9 → s.tickHi.toNat ≤ 9 →
    (performAll [.edge, .tick] s = performAll [.tick, .edge] s ↔ ¬(s.tickLo = 9#4 ∧ s.tickHi = 9#4))

/-- A `CAR` moved past any sequence of operations other than `RST` changes no register's final value, nor anything else but the output
of the last step (rule R102); moved past any sequence of members of one step it changes nothing at all. -/
def Obligations.CarCommutesWithEveryOperationButRst : Prop :=
  (∀ (ops : List Instr) (s : State), Instr.rst ∉ ops →
    execAll (ops ++ [.car]) s = outputCleared (execAll (.car :: ops) s)) ∧
  ∀ (ops : List Trigger) (s : State), performAll (.car :: ops) s = performAll (ops ++ [.car]) s

/-- `RST` on the block (rule R190): the words 8 to F select it, all five registers and the output are written, whatever they held, and the
fault record is not. -/
def Obligations.RstWritesTheFiveRegisters : Prop :=
  (∀ w : EventWord, 8 ≤ w.toNat → decode w = .rst) ∧
    ∀ s : State, ∃ t, exec .rst s = .next t ∧
      t.tickLo = 0#4 ∧ t.tickHi = 0#4 ∧ t.pulseCount = 0#16 ∧ t.speed = s.params.speedInit ∧
      t.carrierOut = s.params.carrierInit ∧ t.windowClosed = false ∧ t.faultOvf = s.faultOvf

/-- `RST` on the rest of the state: the adjacent layer takes the values of rule R41 (that the block's reset input resets it too is the
model's reading, log entry 9), and the inbound channel, the environment's part, the free-value counter and the parameters stay. -/
def Obligations.RstOnTheAdjacentLayer : Prop :=
  ∀ s : State, ∃ t, exec .rst s = .next t ∧
    t.parser = .idle ∧ t.analogSetpoint = s.params.dacInit ∧ t.txSent = [] ∧ t.txPending = [] ∧ t.nothingHeld ∧
    t.rxQueue = s.rxQueue ∧ t.inputs = s.inputs ∧ t.trace = s.trace ∧ t.params = s.params ∧ t.draws = s.draws

/-- `RST` and `NOP` are idempotent and `CAR` is not (rule R56). -/
def Obligations.IdempotentOperations : Prop :=
  (∀ i ∈ [Instr.rst, .nop], ∀ s t : State, exec i s = .next t → exec i t = .next t) ∧
    ∀ s t : State, exec .car s = .next t → exec .car t ≠ .next t

/-! ### Frames -/

/-- What each operation leaves of the block (the "written by" column of rule R20, and rules R27 and R35): a register changes only under
the operations that the rule names for it. -/
def Obligations.OnlyTheNamedOperationsWriteARegister : Prop :=
  ∀ (i : Instr) (s t : State), exec i s = .next t →
    (performedBy .car i = false → i ≠ .rst → t.carrierOut = s.carrierOut) ∧
    (performedBy .edge i = false → t.windowClosed = false → i ≠ .rst → t.pulseCount = s.pulseCount) ∧
    (t.windowClosed = false → i ≠ .rst → t.speed = s.speed) ∧
    (performedBy .tick i = false → i ≠ .rst → t.tickLo = s.tickLo ∧ t.tickHi = s.tickHi) ∧
    (performedBy .edge i = false → t.faultOvf = s.faultOvf ∧ t.draws = s.draws) ∧
    (performedBy .car i = false → i ≠ .rst → t.heldCar = s.heldCar) ∧
    (performedBy .edge i = false → i ≠ .rst → t.heldEdge = s.heldEdge)

/-- What every operation but `RST` leaves of the adjacent layer (rules R60 and R153): the parser and the setpoint always, the outbound
sequence unless the operation closed a window; and what all nine leave. -/
def Obligations.OperationsLeaveTheAdjacentLayer : Prop :=
  ∀ (i : Instr) (s t : State), exec i s = .next t →
    t.params = s.params ∧ t.inputs = s.inputs ∧ t.trace = s.trace ∧ t.rxQueue = s.rxQueue ∧
    (i ≠ .rst → t.parser = s.parser ∧ t.dacH = s.dacH ∧ t.dacL = s.dacL ∧
      (t.windowClosed = false → t.txSent = s.txSent ∧ t.txPending = s.txPending))

/-- The block learns nothing from the adjacent layer, the sensors, the channel or the trace (rules R102 and R153): from two states it
cannot tell apart, in which no member waits, each operation gives outcomes it cannot tell apart, once a member that waits for the
channel has been performed (log entry 18). -/
def Obligations.BlockCannotSeeTheAdjacentLayer : Prop :=
  ∀ (i : Instr) (s t : State), s.nothingHeld → t.nothingHeld → s.sameBlock t → sameOutcome (exec i s) (exec i t)

/-- No step of the adjacent layer reaches the block (rule R153); the last `SerialTx` of a `REPORT` lets a step of the block that waited
for it finish, and nothing else (log entry 18). -/
def Obligations.AdjacentStepsLeaveTheBlock : Prop :=
  ∀ (s t : State) (x : Stimulus) (rest : List Stimulus),
    s.trace = x :: rest → x.ofBlock = false → step s = .next t →
      (x ≠ .txEmpty ∨ s.nothingHeld ∨ t.txPending ≠ [] → s.sameBlock t) ∧ s.performHeld.sameBlock t.performHeld ∧
      (s.faultOvf = false → t.faultOvf = true → s.params.ovfMode = .fault ∧ s.heldEdge = true ∧ s.pulseCount = 65535#16)

/-- Every operation completes: where the counters are in range all nine do, and the five without a `TICK` do in every state. -/
def Obligations.EveryOperationCompletes : Prop :=
  ∀ (i : Instr) (s : State),
    (s.tickLo.toNat ≤ 9 ∧ s.tickHi.toNat ≤ 9) ∨ i ∈ [Instr.nop, .car, .edge, .simCE, .rst] → ∃ t, exec i s = .next t

/-! ### Rules of the whole machine -/

/-- Rule R26: the counters are in 0 to 9 after reset and after every step; within a window the position goes up by exactly 1 at each
`TICK` and `TICK_HI` never decreases. -/
def Obligations.TickCountersStayInRangeAndCountUp : Prop :=
  (∀ p : Params, (State.resetWith p).tickLo.toNat ≤ 9 ∧ (State.resetWith p).tickHi.toNat ≤ 9) ∧
    (∀ s t : State, s.tickLo.toNat ≤ 9 → s.tickHi.toNat ≤ 9 → step s = .next t →
      t.tickLo.toNat ≤ 9 ∧ t.tickHi.toNat ≤ 9) ∧
    ∀ (i : Instr) (s t : State), exec i s = .next t → i ≠ .rst → t.windowClosed = false →
      s.tickHi.toNat ≤ t.tickHi.toNat ∧
        10 * t.tickHi.toNat + t.tickLo.toNat =
          10 * s.tickHi.toNat + s.tickLo.toNat + (if performedBy .tick i then 1 else 0)

/-- `WINDOW_CLOSED` is 1 in exactly the steps that perform a `TICK` from (9, 9), and in the step after such a step it is 0 (rules R27
and R122). -/
def Obligations.WindowClosedExactlyFromTheLastPosition : Prop :=
  ∀ (i : Instr) (s t : State), exec i s = .next t →
    (t.windowClosed = true ↔ performedBy .tick i = true ∧ s.tickLo = 9#4 ∧ s.tickHi = 9#4) ∧
    (t.windowClosed = true → ∀ (j : Instr) (u : State), exec j t = .next u → u.windowClosed = false)

/-- Rule R35: the fault record is 0 at the start, no step clears it, `RST` included, and it is set only by an `EDGE` at the maximum under
`OVF_MODE` = `fault`, which does set it. -/
def Obligations.FaultRecordIsSticky : Prop :=
  (∀ p : Params, (State.resetWith p).faultOvf = false) ∧
    (∀ s t : State, step s = .next t → s.faultOvf = true → t.faultOvf = true) ∧
    (∀ (i : Instr) (s t : State), exec i s = .next t → s.faultOvf = false → t.faultOvf = true →
      s.params.ovfMode = .fault ∧ performedBy .edge i = true ∧ s.pulseCount = 65535#16) ∧
    ∀ s t : State, s.params.ovfMode = .fault → s.pulseCount = 65535#16 → exec .edge s = .next t → t.faultOvf = true

/-- The invariant at reset, under any parameters. -/
def Obligations.MachineInvariantAtReset : Prop :=
  ∀ p : Params, (State.resetWith p).Inv

/-- The invariant is kept by every step: counters in 0 to 9, at most one packet waiting, an outbound sequence of whole packets whose
reserved bits are 0 (rules R26, R78, R80 and R142), and no member waiting but under `all` behind a waiting byte (log entry 18). -/
def Obligations.EveryStepKeepsTheMachineInvariant : Prop :=
  ∀ s t : State, s.Inv → step s = .next t → t.Inv

/-- A run goes on as long as its trace where the channel accepts each packet within its step: no step stops and no byte is left
waiting (rules R142 and R143: "provided every `SerialTx` returned"). -/
def Obligations.RunWithAReadyChannelNeverStops : Prop :=
  ∀ (k : Nat) (s : State), s.ticksInRange = true → s.txPending = [] → s.nothingHeld → k ≤ s.trace.length →
    (s.trace.take k).all Stimulus.channelReady = true → ∃ t, run k s = .next t ∧ t.txPending = [] ∧ t.nothingHeld

/-- The parity law (the spec's own inference, rule R101, from R100): in a run without reset the carrier's level is the old one
toggled as often as `CAR` was performed, each level taken with a `CAR` that waits for a `REPORT` performed (log entry 18; where none
waits the states are themselves). -/
def Obligations.CarrierParityLaw : Prop :=
  ∀ (k : Nat) (s t : State), noReset (s.trace.take k) = true → run k s = .next t →
    t.performHeld.carrierOut = s.performHeld.carrierOut ^^^ BitVec.ofNat 1 (timesPerformed .car (s.trace.take k) % 2)

/-- The position law (the spec's own inference, rule R126, from R120), from any position: the counters and the number of
window-closed events depend on the number of `TICK`s alone. -/
def Obligations.TickPositionLaw : Prop :=
  ∀ (k : Nat) (s t : State), s.tickLo.toNat ≤ 9 → s.tickHi.toNat ≤ 9 → noReset (s.trace.take k) = true →
    run k s = .next t →
      let n := 10 * s.tickHi.toNat + s.tickLo.toNat + timesPerformed .tick (s.trace.take k)
      t.tickLo.toNat = n % 10 ∧ t.tickHi.toNat = n / 10 % 10 ∧ windowsIn k s = n / 100

/-- The counting law (the spec's own inference, rule R114, from R110): between captures, where no fault is recorded, `PULSE_COUNT` goes up by
the number of `EDGE`s performed, and `SPEED` holds; each count is taken with an `EDGE` that waits for a `REPORT` performed (log entry
18). -/
def Obligations.PulseCountingLaw : Prop :=
  ∀ (k : Nat) (s t : State), noReset (s.trace.take k) = true → s.params.ovfMode = .fault →
    run k s = .next t → t.performHeld.faultOvf = false → windowsIn k s = 0 →
      t.performHeld.pulseCount.toNat = s.performHeld.pulseCount.toNat + timesPerformed .edge (s.trace.take k) ∧ t.speed = s.speed

/-- No edge is lost to a capture (rule R115): over any run without reset and without overflow, the counts captured and the count left
add up to the count at the start and the `EDGE`s performed, whatever the orders of simultaneous triggers; each count is taken with an
`EDGE` that waits for a `REPORT` performed (log entry 18). -/
def Obligations.EveryEdgeIsCountedExactlyOnce : Prop :=
  ∀ (k : Nat) (s t : State), noReset (s.trace.take k) = true → s.params.ovfMode = .fault →
    run k s = .next t → t.performHeld.faultOvf = false →
      capturedIn k s + t.performHeld.pulseCount.toNat = s.performHeld.pulseCount.toNat + timesPerformed .edge (s.trace.take k)

/-- The window law (the spec's own inference, rule R128, from R123), from any point of a window: a run whose last item performs the `TICK`
from the window's last position ends with `SPEED` at the count at the start and the `EDGE`s before the capture; an edge in the closing
step counts in this window or the next as the order of that step says. Rule R128 is the case of the start of a window, position and
count 0. Each count is taken with an `EDGE` that waits for a `REPORT` performed (log entry 18). -/
def Obligations.WindowReportsItsEdges : Prop :=
  ∀ (k : Nat) (s t : State) (ew : EventWord) (inputs : Inputs),
    noReset (s.trace.take (k + 1)) = true → s.params.ovfMode = .fault → s.tickLo.toNat ≤ 9 → s.tickHi.toNat ≤ 9 →
    s.trace[k]? = some (.event ew inputs) → ew.getLsbD 2 = true →
    10 * s.tickHi.toNat + s.tickLo.toNat + timesPerformed .tick (s.trace.take k) = 99 →
    run (k + 1) s = .next t → t.performHeld.faultOvf = false →
      let before := s.performHeld.pulseCount.toNat + timesPerformed .edge (s.trace.take k)
      t.windowClosed = true ∧
        t.speed.toNat = before + (if ew.getLsbD 1 && inputs.order.edgeBeforeTick then 1 else 0) ∧
        t.performHeld.pulseCount.toNat = (if ew.getLsbD 1 && !inputs.order.edgeBeforeTick then 1 else 0)

/-- One packet of six bytes per window (the spec's own inference, rule R143, from R140), sent or still waiting. -/
def Obligations.OnePacketPerWindow : Prop :=
  ∀ (k : Nat) (s t : State), noReset (s.trace.take k) = true → run k s = .next t →
    t.txSent.length + t.txPending.length = s.txSent.length + s.txPending.length + 6 * windowsIn k s

/-! ### The adjacent layer -/

/-- The packet, field by field (rule R79), with the reserved bits 0. -/
def Obligations.PacketLayout : Prop :=
  ∀ (speed : Pulse) (x : Sensors), ∃ b2 b3 b4 b5 : Byte,
    packet speed x = [0xFF#8, 0xFF#8, b2, b3, b4, b5] ∧ b2 ++ b3 = speed ∧
    (∀ k < 8, b4.getLsbD k = (decide (k = 0) && x.sensor8)) ∧
    [b5.getLsbD 7, b5.getLsbD 6, b5.getLsbD 5, b5.getLsbD 4, b5.getLsbD 3, b5.getLsbD 2, b5.getLsbD 1, b5.getLsbD 0] =
      [x.sensor9, x.sensor1, x.sensor2, x.sensor3, x.sensor4, x.sensor5, x.sensor6, x.sensor7]

/-- The waiting bytes of a report are sent one per return of `SerialTx`, in order (rules R140 and R142): after
as many as are waiting, all have been sent. With the last one the step that began the report finishes: its members that waited are
performed (log entry 18), and nothing else happens. -/
def Obligations.WaitingBytesAreSentInOrder : Prop :=
  ∀ (k : Nat) (s : State), s.trace.take k = List.replicate k .txEmpty →
    let sent : State :=
      { s with
        txSent := s.txSent ++ s.txPending.take k, txPending := s.txPending.drop k, trace := s.trace.drop k }
    run k s = .next (if k = 0 ∨ k < s.txPending.length then sent else sent.performHeld)

/-- The parser's state table (rule R145, restated as rules R146 to R149): what one iteration of the main loop does with the next byte. -/
def Obligations.ParserStateTable : Prop :=
  ∀ (s : State) (b : Byte) (bs : List Byte) (rest : List Stimulus),
    s.trace = .mainLoop :: rest → s.reportRuns = false → s.rxQueue = b :: bs →
      step s = .next
        (match s.parser with
          | .idle => { s with trace := rest, rxQueue := bs, parser := if b = 0xDD#8 then .sync1 else .idle }
          | .sync1 => { s with trace := rest, rxQueue := bs, parser := if b = 0xDD#8 then .highByte else .idle }
          | .highByte => { s with trace := rest, rxQueue := bs, dacH := b, parser := .lowByte }
          | .lowByte => { s with trace := rest, rxQueue := bs, dacL := b, parser := .idle })

/-- The main loop waits where no byte is available (rule R144) and makes no progress while a report waits in the tick context (rule
R153). -/
def Obligations.MainLoopWaits : Prop :=
  ∀ (s : State) (rest : List Stimulus), s.trace = .mainLoop :: rest → s.reportRuns = true ∨ s.rxQueue = [] →
    step s = .next { s with trace := rest }

/-- A whole command frame sets the setpoint, after any malformed beginning (rule R150): from `Idle`, bytes that are no marker, and
markers followed by a byte that is none, are discarded. -/
def Obligations.ParserResynchronises : Prop :=
  ∀ (s : State) (junk : List (List Byte)) (h l : Byte),
    s.parser = .idle → (∀ g ∈ junk, ∃ b : Byte, b ≠ 0xDD#8 ∧ (g = [b] ∨ g = [0xDD#8, b])) →
      s.rxBytes (junk.flatten ++ [0xDD#8, 0xDD#8, h, l]) = { s with dacH := h, dacL := l } ∧
        (s.rxBytes (junk.flatten ++ [0xDD#8, 0xDD#8, h, l])).analogSetpoint = h ++ l

/-- The idempotence property as rule R151 settles it: one `DD DD` from `Idle` writes nothing and leaves the parser in `HighByte`; a second
`DD DD` in the same stream is payload. -/
def Obligations.MarkersAloneWriteNothing : Prop :=
  ∀ s : State, s.parser = .idle →
    s.rxBytes [0xDD#8, 0xDD#8] = { s with parser := .highByte } ∧
      s.rxBytes [0xDD#8, 0xDD#8, 0xDD#8, 0xDD#8] = { s with dacH := 0xDD#8, dacL := 0xDD#8 }

/-- An inbound byte is queued behind those already waiting (rule R39), and nothing else changes. -/
def Obligations.InboundBytesQueueInOrder : Prop :=
  ∀ (s : State) (b : Byte) (rest : List Stimulus), s.trace = .rxByte b :: rest →
    step s = .next { s with trace := rest, rxQueue := s.rxQueue ++ [b] }

/-! ### Reset, registers and the pin -/

/-- The reset state of the block (rule R40), under any parameters: the registers hold its values at the start and after every `RST`, and
after either every trigger is accepted at once. -/
def Obligations.ResetValuesOfTheBlock : Prop :=
  (∀ p : Params,
    (State.resetWith p).tickLo = 0#4 ∧ (State.resetWith p).tickHi = 0#4 ∧ (State.resetWith p).pulseCount = 0#16 ∧
    (State.resetWith p).speed = p.speedInit ∧ (State.resetWith p).carrierOut = p.carrierInit ∧
    (State.resetWith p).windowClosed = false ∧ (State.resetWith p).faultOvf = false ∧
    ∀ ew : EventWord, (State.resetWith p).reportExcludes ew = false) ∧
  ∀ s t : State, exec .rst s = .next t →
    (∀ i : Nat, t.readReg i = (State.resetWith s.params).readReg i) ∧ t.windowClosed = false ∧ t.faultOvf = s.faultOvf ∧
      ∀ ew : EventWord, t.reportExcludes ew = false

/-- The reset state of the adjacent layer (rule R41), under any parameters. -/
def Obligations.ResetValuesOfTheAdjacentLayer : Prop :=
  ∀ p : Params,
    (State.resetWith p).parser = .idle ∧ (State.resetWith p).analogSetpoint = p.dacInit ∧
    (State.resetWith p).dacH = p.dacInit.extractLsb' 8 8 ∧ (State.resetWith p).dacL = p.dacInit.extractLsb' 0 8 ∧
    (State.resetWith p).txSent = [] ∧ (State.resetWith p).txPending = []

/-- The index form of the register file (rules R8 and R20): a write is read back, and leaves every other register. -/
def Obligations.RegisterFileReadsBackWrites : Prop :=
  ∀ (s : State) (i : Nat) (v : BitVec (regWidth i)),
    (s.writeReg i v).readReg i = v ∧ ∀ j, j ≠ i → (s.writeReg i v).readReg j = s.readReg j

/-- Only the high-to-low transition of the rotation-sensor input is a trigger, one `EDGE`; any other pair of levels adds no step
(rule R111). -/
def Obligations.OnlyTheFallingTransitionCounts : Prop :=
  ∀ (before after : Bool) (inputs : Inputs),
    (before = true ∧ after = false → (pinStimuli before after inputs) = [.event 0b0010#4 inputs]) ∧
      (¬(before = true ∧ after = false) → pinStimuli before after inputs = [])
end

