-- ==== Sys2Proof/Laws/State.lean ====
section
/-!
SUPPORT. One lemma per field per write of the state, so that no later proof unfolds a record update.
-/

namespace Sys2Proof.Machine

section
variable (s : State) (v : Bit)
@[simp] theorem State.setCarrierOut_carrierOut : (s.setCarrierOut v).carrierOut = v := rfl
@[simp] theorem State.setCarrierOut_pulseCount : (s.setCarrierOut v).pulseCount = s.pulseCount := rfl
@[simp] theorem State.setCarrierOut_speed : (s.setCarrierOut v).speed = s.speed := rfl
@[simp] theorem State.setCarrierOut_tickLo : (s.setCarrierOut v).tickLo = s.tickLo := rfl
@[simp] theorem State.setCarrierOut_tickHi : (s.setCarrierOut v).tickHi = s.tickHi := rfl
@[simp] theorem State.setCarrierOut_windowClosed : (s.setCarrierOut v).windowClosed = s.windowClosed := rfl
@[simp] theorem State.setCarrierOut_faultOvf : (s.setCarrierOut v).faultOvf = s.faultOvf := rfl
@[simp] theorem State.setCarrierOut_draws : (s.setCarrierOut v).draws = s.draws := rfl
@[simp] theorem State.setCarrierOut_parser : (s.setCarrierOut v).parser = s.parser := rfl
@[simp] theorem State.setCarrierOut_dacH : (s.setCarrierOut v).dacH = s.dacH := rfl
@[simp] theorem State.setCarrierOut_dacL : (s.setCarrierOut v).dacL = s.dacL := rfl
@[simp] theorem State.setCarrierOut_txPending : (s.setCarrierOut v).txPending = s.txPending := rfl
@[simp] theorem State.setCarrierOut_txSent : (s.setCarrierOut v).txSent = s.txSent := rfl
@[simp] theorem State.setCarrierOut_heldCar : (s.setCarrierOut v).heldCar = s.heldCar := rfl
@[simp] theorem State.setCarrierOut_heldEdge : (s.setCarrierOut v).heldEdge = s.heldEdge := rfl
@[simp] theorem State.setCarrierOut_rxQueue : (s.setCarrierOut v).rxQueue = s.rxQueue := rfl
@[simp] theorem State.setCarrierOut_inputs : (s.setCarrierOut v).inputs = s.inputs := rfl
@[simp] theorem State.setCarrierOut_trace : (s.setCarrierOut v).trace = s.trace := rfl
@[simp] theorem State.setCarrierOut_params : (s.setCarrierOut v).params = s.params := rfl
end

section
variable (s : State) (v : Pulse)
@[simp] theorem State.setPulseCount_carrierOut : (s.setPulseCount v).carrierOut = s.carrierOut := rfl
@[simp] theorem State.setPulseCount_pulseCount : (s.setPulseCount v).pulseCount = v := rfl
@[simp] theorem State.setPulseCount_speed : (s.setPulseCount v).speed = s.speed := rfl
@[simp] theorem State.setPulseCount_tickLo : (s.setPulseCount v).tickLo = s.tickLo := rfl
@[simp] theorem State.setPulseCount_tickHi : (s.setPulseCount v).tickHi = s.tickHi := rfl
@[simp] theorem State.setPulseCount_windowClosed : (s.setPulseCount v).windowClosed = s.windowClosed := rfl
@[simp] theorem State.setPulseCount_faultOvf : (s.setPulseCount v).faultOvf = s.faultOvf := rfl
@[simp] theorem State.setPulseCount_draws : (s.setPulseCount v).draws = s.draws := rfl
@[simp] theorem State.setPulseCount_parser : (s.setPulseCount v).parser = s.parser := rfl
@[simp] theorem State.setPulseCount_dacH : (s.setPulseCount v).dacH = s.dacH := rfl
@[simp] theorem State.setPulseCount_dacL : (s.setPulseCount v).dacL = s.dacL := rfl
@[simp] theorem State.setPulseCount_txPending : (s.setPulseCount v).txPending = s.txPending := rfl
@[simp] theorem State.setPulseCount_txSent : (s.setPulseCount v).txSent = s.txSent := rfl
@[simp] theorem State.setPulseCount_heldCar : (s.setPulseCount v).heldCar = s.heldCar := rfl
@[simp] theorem State.setPulseCount_heldEdge : (s.setPulseCount v).heldEdge = s.heldEdge := rfl
@[simp] theorem State.setPulseCount_rxQueue : (s.setPulseCount v).rxQueue = s.rxQueue := rfl
@[simp] theorem State.setPulseCount_inputs : (s.setPulseCount v).inputs = s.inputs := rfl
@[simp] theorem State.setPulseCount_trace : (s.setPulseCount v).trace = s.trace := rfl
@[simp] theorem State.setPulseCount_params : (s.setPulseCount v).params = s.params := rfl
end

section
variable (s : State) (v : Pulse)
@[simp] theorem State.setSpeed_carrierOut : (s.setSpeed v).carrierOut = s.carrierOut := rfl
@[simp] theorem State.setSpeed_pulseCount : (s.setSpeed v).pulseCount = s.pulseCount := rfl
@[simp] theorem State.setSpeed_speed : (s.setSpeed v).speed = v := rfl
@[simp] theorem State.setSpeed_tickLo : (s.setSpeed v).tickLo = s.tickLo := rfl
@[simp] theorem State.setSpeed_tickHi : (s.setSpeed v).tickHi = s.tickHi := rfl
@[simp] theorem State.setSpeed_windowClosed : (s.setSpeed v).windowClosed = s.windowClosed := rfl
@[simp] theorem State.setSpeed_faultOvf : (s.setSpeed v).faultOvf = s.faultOvf := rfl
@[simp] theorem State.setSpeed_draws : (s.setSpeed v).draws = s.draws := rfl
@[simp] theorem State.setSpeed_parser : (s.setSpeed v).parser = s.parser := rfl
@[simp] theorem State.setSpeed_dacH : (s.setSpeed v).dacH = s.dacH := rfl
@[simp] theorem State.setSpeed_dacL : (s.setSpeed v).dacL = s.dacL := rfl
@[simp] theorem State.setSpeed_txPending : (s.setSpeed v).txPending = s.txPending := rfl
@[simp] theorem State.setSpeed_txSent : (s.setSpeed v).txSent = s.txSent := rfl
@[simp] theorem State.setSpeed_heldCar : (s.setSpeed v).heldCar = s.heldCar := rfl
@[simp] theorem State.setSpeed_heldEdge : (s.setSpeed v).heldEdge = s.heldEdge := rfl
@[simp] theorem State.setSpeed_rxQueue : (s.setSpeed v).rxQueue = s.rxQueue := rfl
@[simp] theorem State.setSpeed_inputs : (s.setSpeed v).inputs = s.inputs := rfl
@[simp] theorem State.setSpeed_trace : (s.setSpeed v).trace = s.trace := rfl
@[simp] theorem State.setSpeed_params : (s.setSpeed v).params = s.params := rfl
end

section
variable (s : State) (v : TickCount)
@[simp] theorem State.setTickLo_carrierOut : (s.setTickLo v).carrierOut = s.carrierOut := rfl
@[simp] theorem State.setTickLo_pulseCount : (s.setTickLo v).pulseCount = s.pulseCount := rfl
@[simp] theorem State.setTickLo_speed : (s.setTickLo v).speed = s.speed := rfl
@[simp] theorem State.setTickLo_tickLo : (s.setTickLo v).tickLo = v := rfl
@[simp] theorem State.setTickLo_tickHi : (s.setTickLo v).tickHi = s.tickHi := rfl
@[simp] theorem State.setTickLo_windowClosed : (s.setTickLo v).windowClosed = s.windowClosed := rfl
@[simp] theorem State.setTickLo_faultOvf : (s.setTickLo v).faultOvf = s.faultOvf := rfl
@[simp] theorem State.setTickLo_draws : (s.setTickLo v).draws = s.draws := rfl
@[simp] theorem State.setTickLo_parser : (s.setTickLo v).parser = s.parser := rfl
@[simp] theorem State.setTickLo_dacH : (s.setTickLo v).dacH = s.dacH := rfl
@[simp] theorem State.setTickLo_dacL : (s.setTickLo v).dacL = s.dacL := rfl
@[simp] theorem State.setTickLo_txPending : (s.setTickLo v).txPending = s.txPending := rfl
@[simp] theorem State.setTickLo_txSent : (s.setTickLo v).txSent = s.txSent := rfl
@[simp] theorem State.setTickLo_heldCar : (s.setTickLo v).heldCar = s.heldCar := rfl
@[simp] theorem State.setTickLo_heldEdge : (s.setTickLo v).heldEdge = s.heldEdge := rfl
@[simp] theorem State.setTickLo_rxQueue : (s.setTickLo v).rxQueue = s.rxQueue := rfl
@[simp] theorem State.setTickLo_inputs : (s.setTickLo v).inputs = s.inputs := rfl
@[simp] theorem State.setTickLo_trace : (s.setTickLo v).trace = s.trace := rfl
@[simp] theorem State.setTickLo_params : (s.setTickLo v).params = s.params := rfl
end

section
variable (s : State) (v : TickCount)
@[simp] theorem State.setTickHi_carrierOut : (s.setTickHi v).carrierOut = s.carrierOut := rfl
@[simp] theorem State.setTickHi_pulseCount : (s.setTickHi v).pulseCount = s.pulseCount := rfl
@[simp] theorem State.setTickHi_speed : (s.setTickHi v).speed = s.speed := rfl
@[simp] theorem State.setTickHi_tickLo : (s.setTickHi v).tickLo = s.tickLo := rfl
@[simp] theorem State.setTickHi_tickHi : (s.setTickHi v).tickHi = v := rfl
@[simp] theorem State.setTickHi_windowClosed : (s.setTickHi v).windowClosed = s.windowClosed := rfl
@[simp] theorem State.setTickHi_faultOvf : (s.setTickHi v).faultOvf = s.faultOvf := rfl
@[simp] theorem State.setTickHi_draws : (s.setTickHi v).draws = s.draws := rfl
@[simp] theorem State.setTickHi_parser : (s.setTickHi v).parser = s.parser := rfl
@[simp] theorem State.setTickHi_dacH : (s.setTickHi v).dacH = s.dacH := rfl
@[simp] theorem State.setTickHi_dacL : (s.setTickHi v).dacL = s.dacL := rfl
@[simp] theorem State.setTickHi_txPending : (s.setTickHi v).txPending = s.txPending := rfl
@[simp] theorem State.setTickHi_txSent : (s.setTickHi v).txSent = s.txSent := rfl
@[simp] theorem State.setTickHi_heldCar : (s.setTickHi v).heldCar = s.heldCar := rfl
@[simp] theorem State.setTickHi_heldEdge : (s.setTickHi v).heldEdge = s.heldEdge := rfl
@[simp] theorem State.setTickHi_rxQueue : (s.setTickHi v).rxQueue = s.rxQueue := rfl
@[simp] theorem State.setTickHi_inputs : (s.setTickHi v).inputs = s.inputs := rfl
@[simp] theorem State.setTickHi_trace : (s.setTickHi v).trace = s.trace := rfl
@[simp] theorem State.setTickHi_params : (s.setTickHi v).params = s.params := rfl
end

section
variable (s : State) (v : Bool)
@[simp] theorem State.setWindowClosed_carrierOut : (s.setWindowClosed v).carrierOut = s.carrierOut := rfl
@[simp] theorem State.setWindowClosed_pulseCount : (s.setWindowClosed v).pulseCount = s.pulseCount := rfl
@[simp] theorem State.setWindowClosed_speed : (s.setWindowClosed v).speed = s.speed := rfl
@[simp] theorem State.setWindowClosed_tickLo : (s.setWindowClosed v).tickLo = s.tickLo := rfl
@[simp] theorem State.setWindowClosed_tickHi : (s.setWindowClosed v).tickHi = s.tickHi := rfl
@[simp] theorem State.setWindowClosed_windowClosed : (s.setWindowClosed v).windowClosed = v := rfl
@[simp] theorem State.setWindowClosed_faultOvf : (s.setWindowClosed v).faultOvf = s.faultOvf := rfl
@[simp] theorem State.setWindowClosed_draws : (s.setWindowClosed v).draws = s.draws := rfl
@[simp] theorem State.setWindowClosed_parser : (s.setWindowClosed v).parser = s.parser := rfl
@[simp] theorem State.setWindowClosed_dacH : (s.setWindowClosed v).dacH = s.dacH := rfl
@[simp] theorem State.setWindowClosed_dacL : (s.setWindowClosed v).dacL = s.dacL := rfl
@[simp] theorem State.setWindowClosed_txPending : (s.setWindowClosed v).txPending = s.txPending := rfl
@[simp] theorem State.setWindowClosed_txSent : (s.setWindowClosed v).txSent = s.txSent := rfl
@[simp] theorem State.setWindowClosed_heldCar : (s.setWindowClosed v).heldCar = s.heldCar := rfl
@[simp] theorem State.setWindowClosed_heldEdge : (s.setWindowClosed v).heldEdge = s.heldEdge := rfl
@[simp] theorem State.setWindowClosed_rxQueue : (s.setWindowClosed v).rxQueue = s.rxQueue := rfl
@[simp] theorem State.setWindowClosed_inputs : (s.setWindowClosed v).inputs = s.inputs := rfl
@[simp] theorem State.setWindowClosed_trace : (s.setWindowClosed v).trace = s.trace := rfl
@[simp] theorem State.setWindowClosed_params : (s.setWindowClosed v).params = s.params := rfl
end

section
variable (s : State) (v : Bool)
@[simp] theorem State.setFaultOvf_carrierOut : (s.setFaultOvf v).carrierOut = s.carrierOut := rfl
@[simp] theorem State.setFaultOvf_pulseCount : (s.setFaultOvf v).pulseCount = s.pulseCount := rfl
@[simp] theorem State.setFaultOvf_speed : (s.setFaultOvf v).speed = s.speed := rfl
@[simp] theorem State.setFaultOvf_tickLo : (s.setFaultOvf v).tickLo = s.tickLo := rfl
@[simp] theorem State.setFaultOvf_tickHi : (s.setFaultOvf v).tickHi = s.tickHi := rfl
@[simp] theorem State.setFaultOvf_windowClosed : (s.setFaultOvf v).windowClosed = s.windowClosed := rfl
@[simp] theorem State.setFaultOvf_faultOvf : (s.setFaultOvf v).faultOvf = v := rfl
@[simp] theorem State.setFaultOvf_draws : (s.setFaultOvf v).draws = s.draws := rfl
@[simp] theorem State.setFaultOvf_parser : (s.setFaultOvf v).parser = s.parser := rfl
@[simp] theorem State.setFaultOvf_dacH : (s.setFaultOvf v).dacH = s.dacH := rfl
@[simp] theorem State.setFaultOvf_dacL : (s.setFaultOvf v).dacL = s.dacL := rfl
@[simp] theorem State.setFaultOvf_txPending : (s.setFaultOvf v).txPending = s.txPending := rfl
@[simp] theorem State.setFaultOvf_txSent : (s.setFaultOvf v).txSent = s.txSent := rfl
@[simp] theorem State.setFaultOvf_heldCar : (s.setFaultOvf v).heldCar = s.heldCar := rfl
@[simp] theorem State.setFaultOvf_heldEdge : (s.setFaultOvf v).heldEdge = s.heldEdge := rfl
@[simp] theorem State.setFaultOvf_rxQueue : (s.setFaultOvf v).rxQueue = s.rxQueue := rfl
@[simp] theorem State.setFaultOvf_inputs : (s.setFaultOvf v).inputs = s.inputs := rfl
@[simp] theorem State.setFaultOvf_trace : (s.setFaultOvf v).trace = s.trace := rfl
@[simp] theorem State.setFaultOvf_params : (s.setFaultOvf v).params = s.params := rfl
end

section
variable (s : State) (v : Nat)
@[simp] theorem State.setDraws_carrierOut : (s.setDraws v).carrierOut = s.carrierOut := rfl
@[simp] theorem State.setDraws_pulseCount : (s.setDraws v).pulseCount = s.pulseCount := rfl
@[simp] theorem State.setDraws_speed : (s.setDraws v).speed = s.speed := rfl
@[simp] theorem State.setDraws_tickLo : (s.setDraws v).tickLo = s.tickLo := rfl
@[simp] theorem State.setDraws_tickHi : (s.setDraws v).tickHi = s.tickHi := rfl
@[simp] theorem State.setDraws_windowClosed : (s.setDraws v).windowClosed = s.windowClosed := rfl
@[simp] theorem State.setDraws_faultOvf : (s.setDraws v).faultOvf = s.faultOvf := rfl
@[simp] theorem State.setDraws_draws : (s.setDraws v).draws = v := rfl
@[simp] theorem State.setDraws_parser : (s.setDraws v).parser = s.parser := rfl
@[simp] theorem State.setDraws_dacH : (s.setDraws v).dacH = s.dacH := rfl
@[simp] theorem State.setDraws_dacL : (s.setDraws v).dacL = s.dacL := rfl
@[simp] theorem State.setDraws_txPending : (s.setDraws v).txPending = s.txPending := rfl
@[simp] theorem State.setDraws_txSent : (s.setDraws v).txSent = s.txSent := rfl
@[simp] theorem State.setDraws_heldCar : (s.setDraws v).heldCar = s.heldCar := rfl
@[simp] theorem State.setDraws_heldEdge : (s.setDraws v).heldEdge = s.heldEdge := rfl
@[simp] theorem State.setDraws_rxQueue : (s.setDraws v).rxQueue = s.rxQueue := rfl
@[simp] theorem State.setDraws_inputs : (s.setDraws v).inputs = s.inputs := rfl
@[simp] theorem State.setDraws_trace : (s.setDraws v).trace = s.trace := rfl
@[simp] theorem State.setDraws_params : (s.setDraws v).params = s.params := rfl
end

section
variable (s : State) (v : ParserState)
@[simp] theorem State.setParser_carrierOut : (s.setParser v).carrierOut = s.carrierOut := rfl
@[simp] theorem State.setParser_pulseCount : (s.setParser v).pulseCount = s.pulseCount := rfl
@[simp] theorem State.setParser_speed : (s.setParser v).speed = s.speed := rfl
@[simp] theorem State.setParser_tickLo : (s.setParser v).tickLo = s.tickLo := rfl
@[simp] theorem State.setParser_tickHi : (s.setParser v).tickHi = s.tickHi := rfl
@[simp] theorem State.setParser_windowClosed : (s.setParser v).windowClosed = s.windowClosed := rfl
@[simp] theorem State.setParser_faultOvf : (s.setParser v).faultOvf = s.faultOvf := rfl
@[simp] theorem State.setParser_draws : (s.setParser v).draws = s.draws := rfl
@[simp] theorem State.setParser_parser : (s.setParser v).parser = v := rfl
@[simp] theorem State.setParser_dacH : (s.setParser v).dacH = s.dacH := rfl
@[simp] theorem State.setParser_dacL : (s.setParser v).dacL = s.dacL := rfl
@[simp] theorem State.setParser_txPending : (s.setParser v).txPending = s.txPending := rfl
@[simp] theorem State.setParser_txSent : (s.setParser v).txSent = s.txSent := rfl
@[simp] theorem State.setParser_heldCar : (s.setParser v).heldCar = s.heldCar := rfl
@[simp] theorem State.setParser_heldEdge : (s.setParser v).heldEdge = s.heldEdge := rfl
@[simp] theorem State.setParser_rxQueue : (s.setParser v).rxQueue = s.rxQueue := rfl
@[simp] theorem State.setParser_inputs : (s.setParser v).inputs = s.inputs := rfl
@[simp] theorem State.setParser_trace : (s.setParser v).trace = s.trace := rfl
@[simp] theorem State.setParser_params : (s.setParser v).params = s.params := rfl
end

section
variable (s : State) (v : Byte)
@[simp] theorem State.setDacH_carrierOut : (s.setDacH v).carrierOut = s.carrierOut := rfl
@[simp] theorem State.setDacH_pulseCount : (s.setDacH v).pulseCount = s.pulseCount := rfl
@[simp] theorem State.setDacH_speed : (s.setDacH v).speed = s.speed := rfl
@[simp] theorem State.setDacH_tickLo : (s.setDacH v).tickLo = s.tickLo := rfl
@[simp] theorem State.setDacH_tickHi : (s.setDacH v).tickHi = s.tickHi := rfl
@[simp] theorem State.setDacH_windowClosed : (s.setDacH v).windowClosed = s.windowClosed := rfl
@[simp] theorem State.setDacH_faultOvf : (s.setDacH v).faultOvf = s.faultOvf := rfl
@[simp] theorem State.setDacH_draws : (s.setDacH v).draws = s.draws := rfl
@[simp] theorem State.setDacH_parser : (s.setDacH v).parser = s.parser := rfl
@[simp] theorem State.setDacH_dacH : (s.setDacH v).dacH = v := rfl
@[simp] theorem State.setDacH_dacL : (s.setDacH v).dacL = s.dacL := rfl
@[simp] theorem State.setDacH_txPending : (s.setDacH v).txPending = s.txPending := rfl
@[simp] theorem State.setDacH_txSent : (s.setDacH v).txSent = s.txSent := rfl
@[simp] theorem State.setDacH_heldCar : (s.setDacH v).heldCar = s.heldCar := rfl
@[simp] theorem State.setDacH_heldEdge : (s.setDacH v).heldEdge = s.heldEdge := rfl
@[simp] theorem State.setDacH_rxQueue : (s.setDacH v).rxQueue = s.rxQueue := rfl
@[simp] theorem State.setDacH_inputs : (s.setDacH v).inputs = s.inputs := rfl
@[simp] theorem State.setDacH_trace : (s.setDacH v).trace = s.trace := rfl
@[simp] theorem State.setDacH_params : (s.setDacH v).params = s.params := rfl
end

section
variable (s : State) (v : Byte)
@[simp] theorem State.setDacL_carrierOut : (s.setDacL v).carrierOut = s.carrierOut := rfl
@[simp] theorem State.setDacL_pulseCount : (s.setDacL v).pulseCount = s.pulseCount := rfl
@[simp] theorem State.setDacL_speed : (s.setDacL v).speed = s.speed := rfl
@[simp] theorem State.setDacL_tickLo : (s.setDacL v).tickLo = s.tickLo := rfl
@[simp] theorem State.setDacL_tickHi : (s.setDacL v).tickHi = s.tickHi := rfl
@[simp] theorem State.setDacL_windowClosed : (s.setDacL v).windowClosed = s.windowClosed := rfl
@[simp] theorem State.setDacL_faultOvf : (s.setDacL v).faultOvf = s.faultOvf := rfl
@[simp] theorem State.setDacL_draws : (s.setDacL v).draws = s.draws := rfl
@[simp] theorem State.setDacL_parser : (s.setDacL v).parser = s.parser := rfl
@[simp] theorem State.setDacL_dacH : (s.setDacL v).dacH = s.dacH := rfl
@[simp] theorem State.setDacL_dacL : (s.setDacL v).dacL = v := rfl
@[simp] theorem State.setDacL_txPending : (s.setDacL v).txPending = s.txPending := rfl
@[simp] theorem State.setDacL_txSent : (s.setDacL v).txSent = s.txSent := rfl
@[simp] theorem State.setDacL_heldCar : (s.setDacL v).heldCar = s.heldCar := rfl
@[simp] theorem State.setDacL_heldEdge : (s.setDacL v).heldEdge = s.heldEdge := rfl
@[simp] theorem State.setDacL_rxQueue : (s.setDacL v).rxQueue = s.rxQueue := rfl
@[simp] theorem State.setDacL_inputs : (s.setDacL v).inputs = s.inputs := rfl
@[simp] theorem State.setDacL_trace : (s.setDacL v).trace = s.trace := rfl
@[simp] theorem State.setDacL_params : (s.setDacL v).params = s.params := rfl
end

section
variable (s : State) (v : List Byte)
@[simp] theorem State.setTxPending_carrierOut : (s.setTxPending v).carrierOut = s.carrierOut := rfl
@[simp] theorem State.setTxPending_pulseCount : (s.setTxPending v).pulseCount = s.pulseCount := rfl
@[simp] theorem State.setTxPending_speed : (s.setTxPending v).speed = s.speed := rfl
@[simp] theorem State.setTxPending_tickLo : (s.setTxPending v).tickLo = s.tickLo := rfl
@[simp] theorem State.setTxPending_tickHi : (s.setTxPending v).tickHi = s.tickHi := rfl
@[simp] theorem State.setTxPending_windowClosed : (s.setTxPending v).windowClosed = s.windowClosed := rfl
@[simp] theorem State.setTxPending_faultOvf : (s.setTxPending v).faultOvf = s.faultOvf := rfl
@[simp] theorem State.setTxPending_draws : (s.setTxPending v).draws = s.draws := rfl
@[simp] theorem State.setTxPending_parser : (s.setTxPending v).parser = s.parser := rfl
@[simp] theorem State.setTxPending_dacH : (s.setTxPending v).dacH = s.dacH := rfl
@[simp] theorem State.setTxPending_dacL : (s.setTxPending v).dacL = s.dacL := rfl
@[simp] theorem State.setTxPending_txPending : (s.setTxPending v).txPending = v := rfl
@[simp] theorem State.setTxPending_txSent : (s.setTxPending v).txSent = s.txSent := rfl
@[simp] theorem State.setTxPending_heldCar : (s.setTxPending v).heldCar = s.heldCar := rfl
@[simp] theorem State.setTxPending_heldEdge : (s.setTxPending v).heldEdge = s.heldEdge := rfl
@[simp] theorem State.setTxPending_rxQueue : (s.setTxPending v).rxQueue = s.rxQueue := rfl
@[simp] theorem State.setTxPending_inputs : (s.setTxPending v).inputs = s.inputs := rfl
@[simp] theorem State.setTxPending_trace : (s.setTxPending v).trace = s.trace := rfl
@[simp] theorem State.setTxPending_params : (s.setTxPending v).params = s.params := rfl
end

section
variable (s : State) (v : List Byte)
@[simp] theorem State.setTxSent_carrierOut : (s.setTxSent v).carrierOut = s.carrierOut := rfl
@[simp] theorem State.setTxSent_pulseCount : (s.setTxSent v).pulseCount = s.pulseCount := rfl
@[simp] theorem State.setTxSent_speed : (s.setTxSent v).speed = s.speed := rfl
@[simp] theorem State.setTxSent_tickLo : (s.setTxSent v).tickLo = s.tickLo := rfl
@[simp] theorem State.setTxSent_tickHi : (s.setTxSent v).tickHi = s.tickHi := rfl
@[simp] theorem State.setTxSent_windowClosed : (s.setTxSent v).windowClosed = s.windowClosed := rfl
@[simp] theorem State.setTxSent_faultOvf : (s.setTxSent v).faultOvf = s.faultOvf := rfl
@[simp] theorem State.setTxSent_draws : (s.setTxSent v).draws = s.draws := rfl
@[simp] theorem State.setTxSent_parser : (s.setTxSent v).parser = s.parser := rfl
@[simp] theorem State.setTxSent_dacH : (s.setTxSent v).dacH = s.dacH := rfl
@[simp] theorem State.setTxSent_dacL : (s.setTxSent v).dacL = s.dacL := rfl
@[simp] theorem State.setTxSent_txPending : (s.setTxSent v).txPending = s.txPending := rfl
@[simp] theorem State.setTxSent_txSent : (s.setTxSent v).txSent = v := rfl
@[simp] theorem State.setTxSent_heldCar : (s.setTxSent v).heldCar = s.heldCar := rfl
@[simp] theorem State.setTxSent_heldEdge : (s.setTxSent v).heldEdge = s.heldEdge := rfl
@[simp] theorem State.setTxSent_rxQueue : (s.setTxSent v).rxQueue = s.rxQueue := rfl
@[simp] theorem State.setTxSent_inputs : (s.setTxSent v).inputs = s.inputs := rfl
@[simp] theorem State.setTxSent_trace : (s.setTxSent v).trace = s.trace := rfl
@[simp] theorem State.setTxSent_params : (s.setTxSent v).params = s.params := rfl
end

section
variable (s : State) (v : Bool)
@[simp] theorem State.setHeldCar_carrierOut : (s.setHeldCar v).carrierOut = s.carrierOut := rfl
@[simp] theorem State.setHeldCar_pulseCount : (s.setHeldCar v).pulseCount = s.pulseCount := rfl
@[simp] theorem State.setHeldCar_speed : (s.setHeldCar v).speed = s.speed := rfl
@[simp] theorem State.setHeldCar_tickLo : (s.setHeldCar v).tickLo = s.tickLo := rfl
@[simp] theorem State.setHeldCar_tickHi : (s.setHeldCar v).tickHi = s.tickHi := rfl
@[simp] theorem State.setHeldCar_windowClosed : (s.setHeldCar v).windowClosed = s.windowClosed := rfl
@[simp] theorem State.setHeldCar_faultOvf : (s.setHeldCar v).faultOvf = s.faultOvf := rfl
@[simp] theorem State.setHeldCar_draws : (s.setHeldCar v).draws = s.draws := rfl
@[simp] theorem State.setHeldCar_parser : (s.setHeldCar v).parser = s.parser := rfl
@[simp] theorem State.setHeldCar_dacH : (s.setHeldCar v).dacH = s.dacH := rfl
@[simp] theorem State.setHeldCar_dacL : (s.setHeldCar v).dacL = s.dacL := rfl
@[simp] theorem State.setHeldCar_txPending : (s.setHeldCar v).txPending = s.txPending := rfl
@[simp] theorem State.setHeldCar_txSent : (s.setHeldCar v).txSent = s.txSent := rfl
@[simp] theorem State.setHeldCar_heldCar : (s.setHeldCar v).heldCar = v := rfl
@[simp] theorem State.setHeldCar_heldEdge : (s.setHeldCar v).heldEdge = s.heldEdge := rfl
@[simp] theorem State.setHeldCar_rxQueue : (s.setHeldCar v).rxQueue = s.rxQueue := rfl
@[simp] theorem State.setHeldCar_inputs : (s.setHeldCar v).inputs = s.inputs := rfl
@[simp] theorem State.setHeldCar_trace : (s.setHeldCar v).trace = s.trace := rfl
@[simp] theorem State.setHeldCar_params : (s.setHeldCar v).params = s.params := rfl
end

section
variable (s : State) (v : Bool)
@[simp] theorem State.setHeldEdge_carrierOut : (s.setHeldEdge v).carrierOut = s.carrierOut := rfl
@[simp] theorem State.setHeldEdge_pulseCount : (s.setHeldEdge v).pulseCount = s.pulseCount := rfl
@[simp] theorem State.setHeldEdge_speed : (s.setHeldEdge v).speed = s.speed := rfl
@[simp] theorem State.setHeldEdge_tickLo : (s.setHeldEdge v).tickLo = s.tickLo := rfl
@[simp] theorem State.setHeldEdge_tickHi : (s.setHeldEdge v).tickHi = s.tickHi := rfl
@[simp] theorem State.setHeldEdge_windowClosed : (s.setHeldEdge v).windowClosed = s.windowClosed := rfl
@[simp] theorem State.setHeldEdge_faultOvf : (s.setHeldEdge v).faultOvf = s.faultOvf := rfl
@[simp] theorem State.setHeldEdge_draws : (s.setHeldEdge v).draws = s.draws := rfl
@[simp] theorem State.setHeldEdge_parser : (s.setHeldEdge v).parser = s.parser := rfl
@[simp] theorem State.setHeldEdge_dacH : (s.setHeldEdge v).dacH = s.dacH := rfl
@[simp] theorem State.setHeldEdge_dacL : (s.setHeldEdge v).dacL = s.dacL := rfl
@[simp] theorem State.setHeldEdge_txPending : (s.setHeldEdge v).txPending = s.txPending := rfl
@[simp] theorem State.setHeldEdge_txSent : (s.setHeldEdge v).txSent = s.txSent := rfl
@[simp] theorem State.setHeldEdge_heldCar : (s.setHeldEdge v).heldCar = s.heldCar := rfl
@[simp] theorem State.setHeldEdge_heldEdge : (s.setHeldEdge v).heldEdge = v := rfl
@[simp] theorem State.setHeldEdge_rxQueue : (s.setHeldEdge v).rxQueue = s.rxQueue := rfl
@[simp] theorem State.setHeldEdge_inputs : (s.setHeldEdge v).inputs = s.inputs := rfl
@[simp] theorem State.setHeldEdge_trace : (s.setHeldEdge v).trace = s.trace := rfl
@[simp] theorem State.setHeldEdge_params : (s.setHeldEdge v).params = s.params := rfl
end

section
variable (s : State) (v : List Byte)
@[simp] theorem State.setRxQueue_carrierOut : (s.setRxQueue v).carrierOut = s.carrierOut := rfl
@[simp] theorem State.setRxQueue_pulseCount : (s.setRxQueue v).pulseCount = s.pulseCount := rfl
@[simp] theorem State.setRxQueue_speed : (s.setRxQueue v).speed = s.speed := rfl
@[simp] theorem State.setRxQueue_tickLo : (s.setRxQueue v).tickLo = s.tickLo := rfl
@[simp] theorem State.setRxQueue_tickHi : (s.setRxQueue v).tickHi = s.tickHi := rfl
@[simp] theorem State.setRxQueue_windowClosed : (s.setRxQueue v).windowClosed = s.windowClosed := rfl
@[simp] theorem State.setRxQueue_faultOvf : (s.setRxQueue v).faultOvf = s.faultOvf := rfl
@[simp] theorem State.setRxQueue_draws : (s.setRxQueue v).draws = s.draws := rfl
@[simp] theorem State.setRxQueue_parser : (s.setRxQueue v).parser = s.parser := rfl
@[simp] theorem State.setRxQueue_dacH : (s.setRxQueue v).dacH = s.dacH := rfl
@[simp] theorem State.setRxQueue_dacL : (s.setRxQueue v).dacL = s.dacL := rfl
@[simp] theorem State.setRxQueue_txPending : (s.setRxQueue v).txPending = s.txPending := rfl
@[simp] theorem State.setRxQueue_txSent : (s.setRxQueue v).txSent = s.txSent := rfl
@[simp] theorem State.setRxQueue_heldCar : (s.setRxQueue v).heldCar = s.heldCar := rfl
@[simp] theorem State.setRxQueue_heldEdge : (s.setRxQueue v).heldEdge = s.heldEdge := rfl
@[simp] theorem State.setRxQueue_rxQueue : (s.setRxQueue v).rxQueue = v := rfl
@[simp] theorem State.setRxQueue_inputs : (s.setRxQueue v).inputs = s.inputs := rfl
@[simp] theorem State.setRxQueue_trace : (s.setRxQueue v).trace = s.trace := rfl
@[simp] theorem State.setRxQueue_params : (s.setRxQueue v).params = s.params := rfl
end

section
variable (s : State) (v : Inputs)
@[simp] theorem State.setInputs_carrierOut : (s.setInputs v).carrierOut = s.carrierOut := rfl
@[simp] theorem State.setInputs_pulseCount : (s.setInputs v).pulseCount = s.pulseCount := rfl
@[simp] theorem State.setInputs_speed : (s.setInputs v).speed = s.speed := rfl
@[simp] theorem State.setInputs_tickLo : (s.setInputs v).tickLo = s.tickLo := rfl
@[simp] theorem State.setInputs_tickHi : (s.setInputs v).tickHi = s.tickHi := rfl
@[simp] theorem State.setInputs_windowClosed : (s.setInputs v).windowClosed = s.windowClosed := rfl
@[simp] theorem State.setInputs_faultOvf : (s.setInputs v).faultOvf = s.faultOvf := rfl
@[simp] theorem State.setInputs_draws : (s.setInputs v).draws = s.draws := rfl
@[simp] theorem State.setInputs_parser : (s.setInputs v).parser = s.parser := rfl
@[simp] theorem State.setInputs_dacH : (s.setInputs v).dacH = s.dacH := rfl
@[simp] theorem State.setInputs_dacL : (s.setInputs v).dacL = s.dacL := rfl
@[simp] theorem State.setInputs_txPending : (s.setInputs v).txPending = s.txPending := rfl
@[simp] theorem State.setInputs_txSent : (s.setInputs v).txSent = s.txSent := rfl
@[simp] theorem State.setInputs_heldCar : (s.setInputs v).heldCar = s.heldCar := rfl
@[simp] theorem State.setInputs_heldEdge : (s.setInputs v).heldEdge = s.heldEdge := rfl
@[simp] theorem State.setInputs_rxQueue : (s.setInputs v).rxQueue = s.rxQueue := rfl
@[simp] theorem State.setInputs_inputs : (s.setInputs v).inputs = v := rfl
@[simp] theorem State.setInputs_trace : (s.setInputs v).trace = s.trace := rfl
@[simp] theorem State.setInputs_params : (s.setInputs v).params = s.params := rfl
end

section
variable (s : State) (v : List Stimulus)
@[simp] theorem State.setTrace_carrierOut : (s.setTrace v).carrierOut = s.carrierOut := rfl
@[simp] theorem State.setTrace_pulseCount : (s.setTrace v).pulseCount = s.pulseCount := rfl
@[simp] theorem State.setTrace_speed : (s.setTrace v).speed = s.speed := rfl
@[simp] theorem State.setTrace_tickLo : (s.setTrace v).tickLo = s.tickLo := rfl
@[simp] theorem State.setTrace_tickHi : (s.setTrace v).tickHi = s.tickHi := rfl
@[simp] theorem State.setTrace_windowClosed : (s.setTrace v).windowClosed = s.windowClosed := rfl
@[simp] theorem State.setTrace_faultOvf : (s.setTrace v).faultOvf = s.faultOvf := rfl
@[simp] theorem State.setTrace_draws : (s.setTrace v).draws = s.draws := rfl
@[simp] theorem State.setTrace_parser : (s.setTrace v).parser = s.parser := rfl
@[simp] theorem State.setTrace_dacH : (s.setTrace v).dacH = s.dacH := rfl
@[simp] theorem State.setTrace_dacL : (s.setTrace v).dacL = s.dacL := rfl
@[simp] theorem State.setTrace_txPending : (s.setTrace v).txPending = s.txPending := rfl
@[simp] theorem State.setTrace_txSent : (s.setTrace v).txSent = s.txSent := rfl
@[simp] theorem State.setTrace_heldCar : (s.setTrace v).heldCar = s.heldCar := rfl
@[simp] theorem State.setTrace_heldEdge : (s.setTrace v).heldEdge = s.heldEdge := rfl
@[simp] theorem State.setTrace_rxQueue : (s.setTrace v).rxQueue = s.rxQueue := rfl
@[simp] theorem State.setTrace_inputs : (s.setTrace v).inputs = s.inputs := rfl
@[simp] theorem State.setTrace_trace : (s.setTrace v).trace = v := rfl
@[simp] theorem State.setTrace_params : (s.setTrace v).params = s.params := rfl
end

end Sys2Proof.Machine
end

