-- ==== Sys2Proof/Laws/Block.lean ====
section
/-!
SUPPORT. What each shared operation of the block can do, once.
-/

namespace Sys2Proof.Machine

/-! ### The reporter -/

theorem serialTxTimes_eq (n : Nat) (s : State) :
    s.serialTxTimes n = (s.setTxSent (s.txSent ++ s.txPending.take n)).setTxPending (s.txPending.drop n) := by
  induction n generalizing s with
  | zero => simp [State.serialTxTimes, State.setTxSent, State.setTxPending]
  | succ n ih =>
    rw [State.serialTxTimes, ih]
    cases h : s.txPending <;> simp [State.serialTx, h, State.setTxSent, State.setTxPending]

/-- A report leaves everything but the outbound sequence. -/
theorem report_eq (s : State) :
    s.report =
      (s.setTxSent (s.txSent ++ (s.txPending ++ packet s.speed s.inputs.sensors).take s.inputs.txReady)).setTxPending
        ((s.txPending ++ packet s.speed s.inputs.sensors).drop s.inputs.txReady) := by
  simp [State.report, serialTxTimes_eq, State.setTxSent, State.setTxPending]

/-! ### The tick -/

/-- A tick that does not finish a decade. -/
theorem tick_of_lo (s : State) (h : s.tickLo + 1#4 ≠ 10#4) :
    s.tick = (s.setTickLo (s.tickLo + 1#4)).setWindowClosed false := by
  simp [State.tick, State.advanceCounters, Config.tickModLo, h, State.transmitStep, State.outWindowClosed]

/-- A tick that finishes a decade and no window. -/
theorem tick_of_carry (s : State) (h : s.tickLo + 1#4 = 10#4) (h' : s.tickHi + 1#4 ≠ 10#4) :
    s.tick = ((s.setTickLo 0#4).setTickHi (s.tickHi + 1#4)).setWindowClosed false := by
  simp [State.tick, State.advanceCounters, Config.tickModLo, Config.tickModHi, h, h', State.transmitStep,
    State.outWindowClosed]
  rfl

/-- The tick that closes the window. -/
theorem tick_of_close (s : State) (h : s.tickLo + 1#4 = 10#4) (h' : s.tickHi + 1#4 = 10#4) :
    s.tick = (((s.setTickLo 0#4).setTickHi 0#4).setWindowClosed true).capture.report := by
  simp [State.tick, State.advanceCounters, Config.tickModLo, Config.tickModHi, h, h', State.transmitStep,
    State.outWindowClosed]
  rfl

/-- A `TICK` answers a next state exactly where the counters are in range. -/
theorem tickStep_next {s t : State} (h : tickStep s = .next t) : s.ticksInRange = true ∧ t = s.tick := by
  unfold tickStep at h
  split at h <;> simp_all

/-- `TICK` writes the output itself, so what it held before does not matter. -/
theorem tickStep_outWindowClosed (s : State) (b : Bool) : tickStep (s.outWindowClosed b) = tickStep s := by
  have hr : (s.outWindowClosed b).ticksInRange = s.ticksInRange := rfl
  have ht : (s.outWindowClosed b).tick = s.tick := by
    by_cases h : s.tickLo + 1#4 = 10#4
    · by_cases h' : s.tickHi + 1#4 = 10#4
      · exact (tick_of_close (s.outWindowClosed b) h h').trans (tick_of_close s h h').symm
      · exact (tick_of_carry (s.outWindowClosed b) h h').trans (tick_of_carry s h h').symm
    · exact (tick_of_lo (s.outWindowClosed b) h).trans (tick_of_lo s h).symm
  simp only [tickStep, hr, ht]

/-! ### Simultaneous triggers -/

/-- Orders of the members of each form, by the order the environment chose. -/
theorem restrictedTo_cases (o : Order) :
    (o.restrictedTo [.car, .edge] = [.car, .edge] ∨ o.restrictedTo [.car, .edge] = [.edge, .car]) ∧
    (o.restrictedTo [.car, .tick] = [.car, .tick] ∨ o.restrictedTo [.car, .tick] = [.tick, .car]) ∧
    o.restrictedTo [.edge, .tick] = (if o.edgeBeforeTick then [.edge, .tick] else [.tick, .edge]) ∧
    o.restrictedTo [.car, .edge, .tick] = o.sequence := by
  cases o <;> decide

/-- The operations of a form one after another, split at any point. -/
theorem performAll_append (xs ys : List Trigger) (s : State) :
    performAll (xs ++ ys) s =
      match performAll xs s with
      | .next t => performAll ys t
      | .fault r => .fault r
      | .refused r => .refused r := by
  induction xs generalizing s with
  | nil => rfl
  | cons x xs ih =>
    simp only [List.cons_append, performAll]
    cases perform x s <;> simp [ih]

/-- The triggers whose operations an operation performs. -/
def membersOf : Instr → List Trigger
  | .nop => []
  | .car => [.car]
  | .edge => [.edge]
  | .simCE => [.car, .edge]
  | .tick => [.tick]
  | .simCT => [.car, .tick]
  | .simET => [.edge, .tick]
  | .simCET => [.car, .edge, .tick]
  | .rst => []

theorem mem_membersOf (x : Trigger) (i : Instr) : x ∈ membersOf i ↔ performedBy x i = true := by
  cases x <;> cases i <;> decide

/-- A step's members are those up to its `TICK` and those after it. -/
theorem throughTick_append_afterTick (l : List Trigger) : throughTick l ++ afterTick l = l := by
  induction l with
  | nil => rfl
  | cons x xs ih => cases x <;> simp [throughTick, afterTick, ih]

theorem hold_nil (s : State) : s.hold [] = s := by
  simp [State.hold, State.setHeldCar, State.setHeldEdge]

/-- Everything a form can do: its members one after another in the order the environment chose, or, where the `REPORT` of its `TICK`
holds them, those up to the `TICK`, and the others held. -/
theorem simultaneous_cases (members : List Trigger) (s : State) :
    (∃ u, performAll (throughTick (s.inputs.order.restrictedTo members)) (s.outWindowClosed false) = .next u ∧
      u.reportHolds = true ∧ simultaneous members s = .next (u.hold (afterTick (s.inputs.order.restrictedTo members)))) ∨
    ((∀ u, performAll (throughTick (s.inputs.order.restrictedTo members)) (s.outWindowClosed false) = .next u →
        u.reportHolds = false) ∧
      simultaneous members s = performAll (s.inputs.order.restrictedTo members) (s.outWindowClosed false)) := by
  have whole := performAll_append (throughTick (s.inputs.order.restrictedTo members))
    (afterTick (s.inputs.order.restrictedTo members)) (s.outWindowClosed false)
  rw [throughTick_append_afterTick] at whole
  rw [whole]
  simp only [simultaneous]
  cases performAll (throughTick (s.inputs.order.restrictedTo members)) (s.outWindowClosed false) with
  | next u => cases hold : u.reportHolds <;> simp [hold]
  | fault r => simp
  | refused r => simp

/-- Every operation but `RST` is the form of its members. -/
theorem exec_eq_simultaneous {i : Instr} (h : i ≠ .rst) (s : State) : exec i s = simultaneous (membersOf i) s := by
  have single : ∀ o : Order, o.restrictedTo [.car] = [.car] ∧ o.restrictedTo [.edge] = [.edge] ∧
      o.restrictedTo [.tick] = [.tick] ∧ o.restrictedTo [] = [] := by
    intro o
    cases o <;> decide
  obtain ⟨hc, he, ht, hn⟩ := single s.inputs.order
  cases i with
  | rst => exact absurd rfl h
  | tick =>
    show tickStep s = _
    simp only [simultaneous, membersOf, ht, throughTick, afterTick, performAll, perform, tickStep_outWindowClosed]
    cases tickStep s <;> simp [hold_nil]
  | nop => simp [simultaneous, membersOf, hn, throughTick, afterTick, performAll, exec, execNop, hold_nil]
  | car => simp [simultaneous, membersOf, hc, throughTick, afterTick, performAll, perform, exec, execCar, hold_nil]
  | edge => simp [simultaneous, membersOf, he, throughTick, afterTick, performAll, perform, exec, execEdge, hold_nil]
  | _ => rfl

/-- The members of a form in a chosen order are its members. -/
theorem mem_restrictedTo {o : Order} {x : Trigger} {ms : List Trigger} (h : x ∈ o.restrictedTo ms) : x ∈ ms := by
  simpa using (List.mem_filter.mp h).2

/-! ### Runs -/

/-- One step more of any of the host's machines, for each outcome of the step. -/
theorem coreRun_of_next {M : Host.Core} {k : Nat} {s t : M.State} (h : M.step s = .next t) :
    M.run (k + 1) s = M.run k t := by
  simp [Host.Core.run, h]

theorem coreRun_of_fault {M : Host.Core} {k : Nat} {s : M.State} {r : M.Fault} (h : M.step s = .fault r) :
    M.run (k + 1) s = .fault r := by
  simp [Host.Core.run, h]

theorem coreRun_of_refused {M : Host.Core} {k : Nat} {s : M.State} {r : M.Refusal} (h : M.step s = .refused r) :
    M.run (k + 1) s = .refused r := by
  simp [Host.Core.run, h]

/-- The runs that claims speak of are the host's runs. -/
theorem run_eq_coreRun (k : Nat) (s : State) : run k s = Host.Core.run Sys2Proof.core k s := by
  induction k generalizing s with
  | zero => rfl
  | succ k ih =>
    cases h : step s with
    | next t => exact (by simp [run, h] : run (k + 1) s = run k t).trans ((ih t).trans (coreRun_of_next (M := core) h).symm)
    | fault r => exact (by simp [run, h] : run (k + 1) s = .fault r).trans (coreRun_of_fault (M := core) h).symm
    | refused r => exact (by simp [run, h] : run (k + 1) s = .refused r).trans (coreRun_of_refused (M := core) h).symm

/-- What one more step adds to a run. -/
theorem run_succ_next {k : Nat} {s t : State} (h : run (k + 1) s = .next t) :
    ∃ u, step s = .next u ∧ run k u = .next t := by
  simp only [run] at h
  split at h
  · exact ⟨_, ‹_›, h⟩
  · cases h
  · cases h

/-- What a step that answers a next state took from the trace. -/
theorem step_next {s t : State} (h : step s = .next t) :
    ∃ x rest, s.trace = x :: rest ∧ deliver x (s.setTrace rest) = .next t := by
  unfold step at h
  split at h
  · cases h
  · exact ⟨_, _, ‹_›, h⟩

/-- What an event word that answers a next state did. -/
theorem deliverEvent_next {ew : EventWord} {inputs : Inputs} {s t : State} (h : deliverEvent ew inputs s = .next t) :
    s.reportExcludes ew = false ∧ exec (decode ew) (s.setInputs inputs) = .next t := by
  unfold deliverEvent at h
  split at h
  · cases h
  · exact ⟨Bool.eq_false_iff.mpr ‹_›, h⟩

end Sys2Proof.Machine
end

