-- ==== Sys2Proof/Laws/Decode.lean ====
section
/-!
SUPPORT. What decoding and encoding say of each other, word by word.
-/

namespace Sys2Proof

@[simp] theorem decode_encode (i : Instr) : decode (encode i) = i := by
  cases i <;> rfl

theorem encode_emitted (i : Instr) : EventWord.emitted (encode i) = true := by
  cases i <;> rfl

/-- A reset word is a reset whatever its trigger bits (rule R73). -/
theorem decode_of_rst {w : EventWord} (h : EventWord.rst w = true) : decode w = .rst := by
  simp [decode, h]

/-- A word without the reset bit decodes to no reset. -/
theorem decode_ne_rst {w : EventWord} (h : EventWord.rst w = false) : decode w ≠ .rst := by
  unfold decode
  rw [h]
  split <;> simp_all

/-- No two rows of the decode table select one word: the table is unambiguous (rule R71). -/
theorem opcodeTable_rows_disjoint :
    opcodeTable.Pairwise fun a b => ∀ w : EventWord, ¬(a.selects w = true ∧ b.selects w = true) := by
  decide

/-- Every word is selected by the row of the operation it decodes to (rule R71: the decode is total). -/
theorem decode_in_opcodeTable (w : EventWord) : ∃ r ∈ opcodeTable, r.selects w = true ∧ r.instr = decode w := by
  revert w
  decide

theorem repeated_eq_replicate {α : Type} (n : Nat) (xs : List α) : repeated n xs = (List.replicate n xs).flatten := by
  induction n with
  | zero => rfl
  | succ n ih => simp [repeated, ih, List.replicate_succ]

end Sys2Proof
end

