-- ==== Sys2Proof/Laws/Exec.lean ====
section
/-!
SUPPORT. Everything one operation can do, once: the effects of the members, of a `TICK`, of an operation other than `RST`, and of a step.
A later proof cites these and unfolds no operation.
-/

namespace Sys2Proof.Machine

theorem ticksInRange_iff (s : State) : s.ticksInRange = true ↔ s.tickLo.toNat ≤ 9 ∧ s.tickHi.toNat ≤ 9 := by
  simp only [State.ticksInRange, Config.tickModLo, Config.tickModHi, Bool.and_eq_true, decide_eq_true_eq, BitVec.lt_def,
    BitVec.toNat_ofNat]
  omega

/-- Toggling once more flips the last bit of the number of toggles. -/
theorem toggle_succ (n : Nat) (b : Bit) : b ^^^ BitVec.ofNat 1 (n + 1) = (b ^^^ 1#1) ^^^ BitVec.ofNat 1 n := by
  have odd_even : BitVec.ofNat 1 (n + 1) = 1#1 ^^^ BitVec.ofNat 1 n := by
    rcases Nat.mod_two_eq_zero_or_one n with h | h
    · have e : BitVec.ofNat 1 n = 0#1 := BitVec.eq_of_toNat_eq (by simp [h])
      have e' : BitVec.ofNat 1 (n + 1) = 1#1 := BitVec.eq_of_toNat_eq (by simp; omega)
      rw [e, e']
      rfl
    · have e : BitVec.ofNat 1 n = 1#1 := BitVec.eq_of_toNat_eq (by simp [h])
      have e' : BitVec.ofNat 1 (n + 1) = 0#1 := BitVec.eq_of_toNat_eq (by simp; omega)
      rw [e, e']
      rfl
  rw [odd_even, BitVec.xor_assoc]

/-! ### `EDGE` -/

/-- The four things an `EDGE` can do (rules R110 and R113). -/
theorem countPulse_cases (s : State) :
    (s.pulseCount.toNat < 65535 ∧ s.countPulse = s.setPulseCount (s.pulseCount + 1#16) ∧
      (s.pulseCount + 1#16).toNat = s.pulseCount.toNat + 1) ∨
    (s.pulseCount = 65535#16 ∧ s.params.ovfMode = .fault ∧ s.countPulse = s.raisePulseOverflow) ∨
    (s.pulseCount = 65535#16 ∧ s.params.ovfMode = .wrap ∧ s.countPulse = s.setPulseCount 0#16) ∨
    (s.pulseCount = 65535#16 ∧ s.params.ovfMode = .saturate ∧ s.countPulse = s) := by
  by_cases below : s.pulseCount.toNat < 65535
  · left
    refine ⟨below, ?_, by bv_omega⟩
    simp only [State.countPulse, Config.maxPulse, Config.wPulse, Nat.reducePow, Nat.reduceSub, below, if_true]
  · have atMax : s.pulseCount = 65535#16 := by bv_omega
    have overflows : s.countPulse = s.overflowPulse := by
      simp only [State.countPulse, Config.maxPulse, Config.wPulse, Nat.reducePow, Nat.reduceSub, below, if_false]
    right
    rw [overflows, State.overflowPulse]
    cases h : s.params.ovfMode <;> simp [atMax]

/-! ### Members without a `TICK` -/

/-- Only the carrier, the count, the fault record and the free-value counter may differ. -/
def State.sameBut (s t : State) : Prop :=
  t = { s with carrierOut := t.carrierOut, pulseCount := t.pulseCount, faultOvf := t.faultOvf, draws := t.draws }

theorem sameBut_fields {s t : State} (h : s.sameBut t) :
    t.speed = s.speed ∧ t.tickLo = s.tickLo ∧ t.tickHi = s.tickHi ∧ t.windowClosed = s.windowClosed ∧
      t.parser = s.parser ∧ t.dacH = s.dacH ∧ t.dacL = s.dacL ∧ t.rxQueue = s.rxQueue ∧ t.inputs = s.inputs ∧
      t.trace = s.trace ∧ t.params = s.params ∧ t.txSent = s.txSent ∧ t.txPending = s.txPending ∧
      t.heldCar = s.heldCar ∧ t.heldEdge = s.heldEdge := by
  unfold State.sameBut at h
  rw [h]
  simp

theorem countPulse_sameBut (s : State) : s.sameBut s.countPulse := by
  unfold State.sameBut
  rcases countPulse_cases s with ⟨-, h, -⟩ | ⟨-, -, h⟩ | ⟨-, -, h⟩ | ⟨-, -, h⟩ <;> rw [h] <;> rfl

/-- `CAR` and `EDGE` members one after another always complete, and what they do. -/
theorem performAll_without_tick (ops : List Trigger) (noTick : Trigger.tick ∉ ops) (s : State) :
    ∃ t, performAll ops s = .next t ∧ s.sameBut t ∧
      t.carrierOut = s.carrierOut ^^^ BitVec.ofNat 1 (ops.count .car) ∧
      (s.params.ovfMode = .fault → t.faultOvf = false →
        s.faultOvf = false ∧ t.pulseCount.toNat = s.pulseCount.toNat + ops.count .edge) ∧
      (s.faultOvf = true → t.faultOvf = true) ∧
      (ops.count .edge = 0 → t.pulseCount = s.pulseCount ∧ t.faultOvf = s.faultOvf ∧ t.draws = s.draws) := by
  induction ops generalizing s with
  | nil => exact ⟨s, rfl, rfl, by simp, by simp, by simp, by simp⟩
  | cons x xs ih =>
    have noTick' : Trigger.tick ∉ xs := fun h => noTick (List.mem_cons_of_mem _ h)
    cases x with
    | tick => exact absurd List.mem_cons_self noTick
    | car =>
      obtain ⟨t, run, same, car, count, sticky, quiet⟩ := ih noTick' s.toggleCarrier
      refine ⟨t, run, ?_, ?_, ?_, sticky, ?_⟩
      · unfold State.sameBut at *
        rw [same]
        rfl
      · rw [car, List.count_cons_self, toggle_succ]
        rfl
      · intro mode clear
        rw [List.count_cons_of_ne (by decide)]
        exact count mode clear
      · intro noE
        rw [List.count_cons_of_ne (by decide)] at noE
        exact quiet noE
    | edge =>
      obtain ⟨t, run, same, car, count, sticky, quiet⟩ := ih noTick' s.countPulse
      have fields := sameBut_fields (countPulse_sameBut s)
      have params : s.countPulse.params = s.params := fields.2.2.2.2.2.2.2.2.2.2.1
      refine ⟨t, run, ?_, ?_, ?_, ?_, ?_⟩
      · have first := countPulse_sameBut s
        unfold State.sameBut at *
        rw [same, first]
      · rw [car]
        rcases countPulse_cases s with ⟨-, h, -⟩ | ⟨-, -, h⟩ | ⟨-, -, h⟩ | ⟨-, -, h⟩ <;>
          simp [h, State.raisePulseOverflow]
      · intro mode clear
        obtain ⟨before, sum⟩ := count (params ▸ mode) clear
        rw [List.count_cons_self]
        rcases countPulse_cases s with ⟨-, h, one⟩ | ⟨-, -, h⟩ | ⟨-, wrong, -⟩ | ⟨-, wrong, -⟩
        · rw [h] at before sum
          exact ⟨before, by rw [sum, State.setPulseCount_pulseCount, one]; omega⟩
        · rw [h] at before
          exact absurd before (by simp [State.raisePulseOverflow])
        · rw [mode] at wrong
          cases wrong
        · rw [mode] at wrong
          cases wrong
      · intro recorded
        apply sticky
        rcases countPulse_cases s with ⟨-, h, -⟩ | ⟨-, -, h⟩ | ⟨-, -, h⟩ | ⟨-, -, h⟩ <;>
          simp [h, recorded, State.raisePulseOverflow]
      · intro noE
        rw [List.count_cons_self] at noE
        exact absurd noE (by omega)

/-! ### `TICK` -/

/-- What a `TICK` that completes has done. -/
structure TickEffect (s t : State) : Prop where
  before : s.tickLo.toNat ≤ 9 ∧ s.tickHi.toNat ≤ 9
  after : t.tickLo.toNat ≤ 9 ∧ t.tickHi.toNat ≤ 9
  carrier : t.carrierOut = s.carrierOut
  fault : t.faultOvf = s.faultOvf
  draws : t.draws = s.draws
  adjacent : t.parser = s.parser ∧ t.dacH = s.dacH ∧ t.dacL = s.dacL ∧ t.rxQueue = s.rxQueue ∧ t.inputs = s.inputs ∧
    t.trace = s.trace ∧ t.params = s.params
  held : t.heldCar = s.heldCar ∧ t.heldEdge = s.heldEdge
  window : t.windowClosed = true ↔ s.tickLo = 9#4 ∧ s.tickHi = 9#4
  goesOn : t.windowClosed = false →
    t.speed = s.speed ∧ t.pulseCount = s.pulseCount ∧ t.txSent = s.txSent ∧ t.txPending = s.txPending ∧
      10 * t.tickHi.toNat + t.tickLo.toNat = 10 * s.tickHi.toNat + s.tickLo.toNat + 1 ∧ s.tickHi.toNat ≤ t.tickHi.toNat
  closes : t.windowClosed = true →
    t.tickLo = 0#4 ∧ t.tickHi = 0#4 ∧ t.speed = s.pulseCount ∧ t.pulseCount = 0#16 ∧
      t.txSent = s.txSent ++ (s.txPending ++ packet s.pulseCount s.inputs.sensors).take s.inputs.txReady ∧
      t.txPending = (s.txPending ++ packet s.pulseCount s.inputs.sensors).drop s.inputs.txReady

theorem tick_effect {s t : State} (h : tickStep s = .next t) : TickEffect s t := by
  obtain ⟨inRange, rfl⟩ := tickStep_next h
  have bounds := (ticksInRange_iff s).mp inRange
  by_cases lo : s.tickLo + 1#4 = 10#4
  · have lo9 : s.tickLo = 9#4 := by bv_omega
    by_cases hi : s.tickHi + 1#4 = 10#4
    · have hi9 : s.tickHi = 9#4 := by bv_omega
      rw [tick_of_close s lo hi, report_eq]
      constructor <;> simp_all [State.capture]
    · have hi9 : s.tickHi ≠ 9#4 := by bv_omega
      rw [tick_of_carry s lo hi]
      constructor <;> simp_all
      · bv_omega
      · constructor <;> bv_omega
  · have lo9 : s.tickLo ≠ 9#4 := by bv_omega
    rw [tick_of_lo s lo]
    constructor <;> simp_all
    · bv_omega
    · bv_omega

theorem tickStep_of_inRange (s : State) (h : s.tickLo.toNat ≤ 9 ∧ s.tickHi.toNat ≤ 9) : tickStep s = .next s.tick := by
  simp [tickStep, (ticksInRange_iff s).mpr h]

/-! ### The members of an operation -/

/-- A member list without a `TICK`, or one `TICK` among members that hold none, with the `EDGE` on the side the order says. -/
theorem members_around_tick (o : Order) (i : Instr) :
    (performedBy .tick i = false ∧ Trigger.tick ∉ o.restrictedTo (membersOf i)) ∨
    (performedBy .tick i = true ∧ ∃ a b, o.restrictedTo (membersOf i) = a ++ .tick :: b ∧
      Trigger.tick ∉ a ∧ Trigger.tick ∉ b ∧
      (a.count .edge = if performedBy .edge i && o.edgeBeforeTick then 1 else 0) ∧
      (b.count .edge = if performedBy .edge i && !o.edgeBeforeTick then 1 else 0)) := by
  have split : ∀ l : List Trigger, Trigger.tick ∈ l →
      l = l.takeWhile (· ≠ .tick) ++ .tick :: (l.dropWhile (· ≠ .tick)).tail := by
    intro l
    induction l with
    | nil => intro h; cases h
    | cons x xs ih =>
      intro h
      by_cases hx : x = .tick
      · simp [hx]
      · have hxs : Trigger.tick ∈ xs := by simpa [Ne.symm hx] using h
        simpa [hx] using ih hxs
  cases ht : performedBy .tick i
  · left
    exact ⟨rfl, fun h => by simp [(mem_membersOf .tick i).mp (mem_restrictedTo h)] at ht⟩
  · right
    refine ⟨rfl, _, _, split _ ?_, ?_⟩
    · revert ht
      cases o <;> cases i <;> decide
    · revert ht
      cases o <;> cases i <;> decide

/-- How often each of `CAR` and `EDGE` is among the members. -/
theorem count_members (o : Order) (i : Instr) :
    (o.restrictedTo (membersOf i)).count .car = (if performedBy .car i then 1 else 0) ∧
    (o.restrictedTo (membersOf i)).count .edge = (if performedBy .edge i then 1 else 0) := by
  cases o <;> cases i <;> decide

/-! ### An operation -/

/-- What the members of an operation `i`, all performed, have done. -/
structure OperationEffect (i : Instr) (s t : State) : Prop where
  carrier : t.carrierOut = s.carrierOut ^^^ BitVec.ofNat 1 (if performedBy .car i then 1 else 0)
  adjacent : t.parser = s.parser ∧ t.dacH = s.dacH ∧ t.dacL = s.dacL ∧ t.rxQueue = s.rxQueue ∧ t.inputs = s.inputs ∧
    t.trace = s.trace ∧ t.params = s.params
  window : t.windowClosed = true ↔ performedBy .tick i = true ∧ s.tickLo = 9#4 ∧ s.tickHi = 9#4
  range : performedBy .tick i = true →
    (s.tickLo.toNat ≤ 9 ∧ s.tickHi.toNat ≤ 9) ∧ t.tickLo.toNat ≤ 9 ∧ t.tickHi.toNat ≤ 9
  withoutTick : performedBy .tick i = false → t.tickLo = s.tickLo ∧ t.tickHi = s.tickHi
  sticky : s.faultOvf = true → t.faultOvf = true
  withoutEdge : performedBy .edge i = false → t.faultOvf = s.faultOvf ∧ t.draws = s.draws
  goesOn : t.windowClosed = false →
    t.speed = s.speed ∧ t.txSent = s.txSent ∧ t.txPending = s.txPending ∧
      (performedBy .edge i = false → t.pulseCount = s.pulseCount) ∧
      (performedBy .tick i = true →
        10 * t.tickHi.toNat + t.tickLo.toNat = 10 * s.tickHi.toNat + s.tickLo.toNat + 1 ∧
          s.tickHi.toNat ≤ t.tickHi.toNat) ∧
      (s.params.ovfMode = .fault → t.faultOvf = false →
        t.pulseCount.toNat = s.pulseCount.toNat + if performedBy .edge i then 1 else 0)
  closes : t.windowClosed = true →
    t.tickLo = 0#4 ∧ t.tickHi = 0#4 ∧
      t.txSent = s.txSent ++ (s.txPending ++ packet t.speed s.inputs.sensors).take s.inputs.txReady ∧
      t.txPending = (s.txPending ++ packet t.speed s.inputs.sensors).drop s.inputs.txReady ∧
      (s.params.ovfMode = .fault → t.faultOvf = false →
        t.speed.toNat =
            s.pulseCount.toNat + (if performedBy .edge i && s.inputs.order.edgeBeforeTick then 1 else 0) ∧
          t.pulseCount.toNat = if performedBy .edge i && !s.inputs.order.edgeBeforeTick then 1 else 0)

/-- Toggles of disjoint members add up. -/
theorem toggle_add {m n : Nat} (h : m + n ≤ 1) :
    BitVec.ofNat 1 m ^^^ BitVec.ofNat 1 n = BitVec.ofNat 1 (m + n) := by
  have hm : m ≤ 1 := by omega
  have hn : n ≤ 1 := by omega
  interval_cases m <;> interval_cases n <;> decide

/-- The effect of an operation without a `TICK`. -/
theorem operation_effect_without_tick {i : Instr} {s t : State} (noTick : performedBy .tick i = false)
    (free : Trigger.tick ∉ s.inputs.order.restrictedTo (membersOf i))
    (h : performAll (s.inputs.order.restrictedTo (membersOf i)) (s.outWindowClosed false) = .next t) :
    OperationEffect i s t := by
  obtain ⟨countCar, countEdge⟩ := count_members s.inputs.order i
  obtain ⟨t', run, same, car, count, sticky, quiet⟩ := performAll_without_tick _ free (s.outWindowClosed false)
  rw [run] at h
  cases h
  obtain ⟨sp, lo, hi, wc, pa, dh, dl, rx, inp, tr, par, sent, pend, -⟩ := sameBut_fields same
  have off : t.windowClosed = false := wc
  refine ⟨?_, ⟨pa, dh, dl, rx, inp, tr, par⟩, ?_, ?_, fun _ => ⟨lo, hi⟩, sticky, ?_, fun _ => ⟨sp, sent, pend, ?_, ?_, ?_⟩, ?_⟩
  · rw [car, countCar]
    rfl
  · simp [off, noTick]
  · simp [noTick]
  · intro noE
    exact (quiet (by simpa [noE] using countEdge)).2
  · intro noE
    exact (quiet (by simpa [noE] using countEdge)).1
  · simp [noTick]
  · intro mode clear
    rw [(count mode clear).2, countEdge]
    rfl
  · simp [off]

/-- The effect of an operation with members before and after a `TICK`. -/
theorem operation_effect_with_tick {i : Instr} {s t : State} {a b : List Trigger} (isTick : performedBy .tick i = true)
    (shape : s.inputs.order.restrictedTo (membersOf i) = a ++ .tick :: b) (freeA : Trigger.tick ∉ a) (freeB : Trigger.tick ∉ b)
    (edgeA : a.count .edge = if performedBy .edge i && s.inputs.order.edgeBeforeTick then 1 else 0)
    (edgeB : b.count .edge = if performedBy .edge i && !s.inputs.order.edgeBeforeTick then 1 else 0)
    (h : performAll (a ++ .tick :: b) (s.outWindowClosed false) = .next t) : OperationEffect i s t := by
  have countCar := (count_members s.inputs.order i).1
  rw [shape, List.count_append, List.count_cons_of_ne (by decide)] at countCar
  obtain ⟨u, runA, sameA, carA, countA, stickyA, quietA⟩ := performAll_without_tick _ freeA (s.outWindowClosed false)
  rw [performAll_append, runA] at h
  simp only [performAll, perform] at h
  cases ticked : tickStep u with
  | fault r => simp [ticked] at h
  | refused r => simp [ticked] at h
  | next v =>
    simp only [ticked] at h
    obtain ⟨t', runB, sameB, carB, countB, stickyB, quietB⟩ := performAll_without_tick _ freeB v
    rw [runB] at h
    cases h
    have T := tick_effect ticked
    obtain ⟨spA, loA, hiA, -, paA, dhA, dlA, rxA, inpA, trA, parA, sentA, pendA, -⟩ := sameBut_fields sameA
    obtain ⟨spB, loB, hiB, wcB, paB, dhB, dlB, rxB, inpB, trB, parB, sentB, pendB, -⟩ := sameBut_fields sameB
    obtain ⟨paT, dhT, dlT, rxT, inpT, trT, parT⟩ := T.adjacent
    have lo : u.tickLo = s.tickLo := loA
    have hi : u.tickHi = s.tickHi := hiA
    have inputs : u.inputs = s.inputs := inpA
    have params : v.params = s.params := parT.trans parA
    have start : (s.outWindowClosed false).pulseCount = s.pulseCount := rfl
    have noEdge : performedBy .edge i = false → a.count .edge = 0 ∧ b.count .edge = 0 := by
      intro noE
      simp [edgeA, edgeB, noE]
    refine ⟨?_, ?_, ?_, ?_, ?_, ?_, ?_, ?_, ?_⟩
    · rw [carB, T.carrier, carA, BitVec.xor_assoc, toggle_add (by rw [countCar]; split <;> omega), countCar]
      rfl
    · exact ⟨paB.trans (paT.trans paA), dhB.trans (dhT.trans dhA), dlB.trans (dlT.trans dlA), rxB.trans (rxT.trans rxA),
        inpB.trans (inpT.trans inpA), trB.trans (trT.trans trA), parB.trans (parT.trans parA)⟩
    · rw [wcB, T.window, lo, hi]
      simp [isTick]
    · intro _
      rw [loB, hiB]
      exact ⟨by simpa [lo, hi] using T.before, T.after⟩
    · simp [isTick]
    · intro recorded
      exact stickyB (T.fault.trans (stickyA recorded))
    · intro noE
      obtain ⟨-, fA, dA⟩ := quietA (noEdge noE).1
      obtain ⟨-, fB, dB⟩ := quietB (noEdge noE).2
      exact ⟨fB.trans (T.fault.trans fA), dB.trans (T.draws.trans dA)⟩
    · intro off
      rw [wcB] at off
      obtain ⟨sp, pc, sent, pend, position, mono⟩ := T.goesOn off
      refine ⟨spB.trans (sp.trans spA), sentB.trans (sent.trans sentA), pendB.trans (pend.trans pendA), ?_, ?_, ?_⟩
      · intro noE
        exact (quietB (noEdge noE).2).1.trans (pc.trans (quietA (noEdge noE).1).1)
      · intro _
        rw [loB, hiB, ← lo, ← hi]
        exact ⟨position, mono⟩
      · intro mode clear
        obtain ⟨clearV, sumB⟩ := countB (params ▸ mode) clear
        obtain ⟨-, sumA⟩ := countA mode (T.fault ▸ clearV)
        rw [sumB, pc, sumA, edgeA, edgeB, start]
        cases performedBy .edge i <;> cases s.inputs.order.edgeBeforeTick <;> simp
    · intro on
      rw [wcB] at on
      obtain ⟨lo0, hi0, sp, pc, sent, pend⟩ := T.closes on
      have captured : t.speed = u.pulseCount := spB.trans sp
      refine ⟨loB.trans lo0, hiB.trans hi0, ?_, ?_, ?_⟩
      · rw [sentB, sent, captured, sentA, pendA, inputs]
        rfl
      · rw [pendB, pend, captured, pendA, inputs]
        rfl
      · intro mode clear
        obtain ⟨clearV, sumB⟩ := countB (params ▸ mode) clear
        obtain ⟨-, sumA⟩ := countA mode (T.fault ▸ clearV)
        rw [captured, sumA, sumB, pc, edgeA, edgeB]
        simp [start]

/-- Everything the members of an operation can do, all performed in a step's order. -/
theorem members_effect {i : Instr} {s t : State}
    (h : performAll (s.inputs.order.restrictedTo (membersOf i)) (s.outWindowClosed false) = .next t) : OperationEffect i s t := by
  rcases members_around_tick s.inputs.order i with ⟨noTick, free⟩ | ⟨isTick, a, b, shape, freeA, freeB, edgeA, edgeB⟩
  · exact operation_effect_without_tick noTick free h
  · exact operation_effect_with_tick isTick shape freeA freeB edgeA edgeB (shape ▸ h)

/-! ### Members that wait for a `REPORT` -/

/-- A change of the state that `EDGE` neither reads nor writes may be made before it or after it. -/
theorem countPulse_comm {f : State → State} {s : State}
    (reads : (f s).pulseCount = s.pulseCount ∧ (f s).params = s.params)
    (writes : ∀ p, (f s).setPulseCount p = f (s.setPulseCount p))
    (fault : (f s).raisePulseOverflow = f s.raisePulseOverflow) : (f s).countPulse = f s.countPulse := by
  obtain ⟨count, params⟩ := reads
  simp only [State.countPulse, State.overflowPulse, count, params]
  split
  · exact writes _
  · cases s.params.ovfMode
    · exact fault
    · exact writes _
    · rfl

/-- A change of the state that neither `CAR` nor `EDGE` nor what is held stands in the way of may be made before the held members or
after them. -/
theorem performHeld_comm {f : State → State} (car : ∀ s, (f s).toggleCarrier = f s.toggleCarrier)
    (edge : ∀ s, (f s).countPulse = f s.countPulse) (flags : ∀ s : State, (f s).heldCar = s.heldCar ∧ (f s).heldEdge = s.heldEdge)
    (release : ∀ s, ((f s).setHeldCar false).setHeldEdge false = f ((s.setHeldCar false).setHeldEdge false)) (s : State) :
    (f s).performHeld = f s.performHeld := by
  simp only [State.performHeld, flags]
  cases s.heldCar <;> cases s.heldEdge <;> simp only [if_true, if_false, Bool.false_eq_true, car, edge, release]

theorem countPulse_toggleCarrier (s : State) : s.toggleCarrier.countPulse = s.countPulse.toggleCarrier :=
  countPulse_comm (f := State.toggleCarrier) ⟨rfl, rfl⟩ (fun _ => rfl) rfl

theorem countPulse_outWindowClosed (b : Bool) (s : State) : (s.outWindowClosed b).countPulse = s.countPulse.outWindowClosed b :=
  countPulse_comm (f := fun s => s.outWindowClosed b) ⟨rfl, rfl⟩ (fun _ => rfl) rfl

theorem countPulse_held (car edge : Bool) (s : State) :
    ((s.setHeldCar car).setHeldEdge edge).countPulse = (s.countPulse.setHeldCar car).setHeldEdge edge :=
  countPulse_comm (f := fun s => (s.setHeldCar car).setHeldEdge edge) ⟨rfl, rfl⟩ (fun _ => rfl) rfl

/-- Nothing held is nothing released. -/
theorem released_eq {s : State} (h : s.nothingHeld) (car edge : Bool) :
    ((((s.setHeldCar car).setHeldEdge edge).setHeldCar false).setHeldEdge false) = s := by
  obtain ⟨hc, he⟩ := h
  cases s
  cases hc
  cases he
  rfl

theorem performHeld_of_nothingHeld {s : State} (h : s.nothingHeld) : s.performHeld = s := by
  simp only [State.performHeld, h.1, h.2, if_false, Bool.false_eq_true]
  exact released_eq h false false

theorem countPulse_nothingHeld {s : State} (h : s.nothingHeld) : s.countPulse.nothingHeld := by
  obtain ⟨-, -, -, -, -, -, -, -, -, -, -, -, -, hc, he⟩ := sameBut_fields (countPulse_sameBut s)
  exact ⟨hc.trans h.1, he.trans h.2⟩

/-- Performing what is held changes the carrier, the count, the fault record and the free-value counter at most, and leaves nothing
held. -/
theorem performHeld_sameBut (s : State) : ((s.setHeldCar false).setHeldEdge false).sameBut s.performHeld := by
  simp only [State.performHeld]
  cases s.heldCar <;> cases s.heldEdge <;> simp only [if_true, if_false, Bool.false_eq_true, ← countPulse_held]
  · rfl
  · exact countPulse_sameBut _
  · rfl
  · have h := countPulse_sameBut ((s.toggleCarrier.setHeldCar false).setHeldEdge false)
    unfold State.sameBut at *
    rw [h]
    rfl

theorem performHeld_toggleCarrier (s : State) : s.toggleCarrier.performHeld = s.performHeld.toggleCarrier :=
  performHeld_comm (f := State.toggleCarrier) (fun _ => rfl) countPulse_toggleCarrier (fun _ => ⟨rfl, rfl⟩) (fun _ => rfl) s

theorem performHeld_countPulse (s : State) : s.countPulse.performHeld = s.performHeld.countPulse := by
  refine performHeld_comm (f := State.countPulse) (fun s => (countPulse_toggleCarrier s).symm) (fun _ => rfl) (fun s => ?_)
    (fun s => (countPulse_held false false s).symm) s
  obtain ⟨-, -, -, -, -, -, -, -, -, -, -, -, -, held⟩ := sameBut_fields (countPulse_sameBut s)
  exact held

/-- A change of the state apart from everything that `CAR`, `EDGE` and what is held read or write may be made before the held members or
after them. -/
theorem performHeld_apart {f : State → State}
    (apart : ∀ (s : State) (c : Bit) (p : Pulse) (o : Bool) (d : Nat) (hc he : Bool),
      f { s with carrierOut := c, pulseCount := p, faultOvf := o, draws := d, heldCar := hc, heldEdge := he } =
        { f s with carrierOut := c, pulseCount := p, faultOvf := o, draws := d, heldCar := hc, heldEdge := he })
    (params : ∀ s, (f s).params = s.params) (s : State) : (f s).performHeld = f s.performHeld := by
  have own : ∀ s, f s = { f s with
      carrierOut := s.carrierOut, pulseCount := s.pulseCount, faultOvf := s.faultOvf, draws := s.draws,
      heldCar := s.heldCar, heldEdge := s.heldEdge } :=
    fun s => apart s s.carrierOut s.pulseCount s.faultOvf s.draws s.heldCar s.heldEdge
  refine performHeld_comm (fun s => ?_) (fun s => ?_) (fun s => ?_) (fun s => ?_) s
  · have e := apart s (s.carrierOut ^^^ 1#1) s.pulseCount s.faultOvf s.draws s.heldCar s.heldEdge
    refine Eq.trans ?_ e.symm
    conv_lhs => rw [own s]
    rfl
  · refine countPulse_comm ⟨?_, params s⟩ (fun p => ?_) ?_
    · rw [own s]
    · have e := apart s s.carrierOut p s.faultOvf s.draws s.heldCar s.heldEdge
      refine Eq.trans ?_ e.symm
      conv_lhs => rw [own s]
      rfl
    · have e := apart s s.carrierOut s.anyPulse true (s.draws + 1) s.heldCar s.heldEdge
      refine Eq.trans ?_ e.symm
      conv_lhs => rw [own s]
      rfl
  · rw [own s]
    exact ⟨rfl, rfl⟩
  · have e := apart s s.carrierOut s.pulseCount s.faultOvf s.draws false false
    refine Eq.trans ?_ e.symm
    conv_lhs => rw [own s]
    rfl

theorem performHeld_outWindowClosed (b : Bool) (s : State) : (s.outWindowClosed b).performHeld = s.performHeld.outWindowClosed b :=
  performHeld_apart (f := fun s => s.outWindowClosed b) (fun _ _ _ _ _ _ _ => rfl) (fun _ => rfl) s

theorem performHeld_setInputs (x : Inputs) (s : State) : (s.setInputs x).performHeld = s.performHeld.setInputs x :=
  performHeld_apart (f := fun s => s.setInputs x) (fun _ _ _ _ _ _ _ => rfl) (fun _ => rfl) s

theorem performHeld_setTrace (xs : List Stimulus) (s : State) : (s.setTrace xs).performHeld = s.performHeld.setTrace xs :=
  performHeld_apart (f := fun s => s.setTrace xs) (fun _ _ _ _ _ _ _ => rfl) (fun _ => rfl) s

theorem performHeld_setRxQueue (bs : List Byte) (s : State) : (s.setRxQueue bs).performHeld = s.performHeld.setRxQueue bs :=
  performHeld_apart (f := fun s => s.setRxQueue bs) (fun _ _ _ _ _ _ _ => rfl) (fun _ => rfl) s

theorem performHeld_serialTx (s : State) : s.serialTx.performHeld = s.performHeld.serialTx := by
  refine performHeld_apart (f := State.serialTx) (fun s _ _ _ _ _ _ => ?_) (fun s => ?_) s <;> cases h : s.txPending <;>
    simp only [State.serialTx, h] <;> rfl

theorem performHeld_rxByte (b : Byte) (s : State) : (s.rxByte b).performHeld = s.performHeld.rxByte b := by
  refine performHeld_apart (f := fun s => s.rxByte b) (fun s _ _ _ _ _ _ => ?_) (fun s => ?_) s <;>
    cases h : s.parser <;> simp only [State.rxByte, h] <;> (try split) <;> rfl

/-- Nothing is held once what is held has been performed. -/
theorem performHeld_nothingHeld (s : State) : s.performHeld.nothingHeld := by
  obtain ⟨-, -, -, -, -, -, -, -, -, -, -, -, -, hc, he⟩ := sameBut_fields (performHeld_sameBut s)
  exact ⟨hc, he⟩

/-- `CAR` and `EDGE` members may be performed before what is held, or after. -/
theorem performAll_performHeld (ops : List Trigger) (noTick : Trigger.tick ∉ ops) {s t : State}
    (h : performAll ops s = .next t) : performAll ops s.performHeld = .next t.performHeld := by
  induction ops generalizing s with
  | nil =>
    cases h
    rfl
  | cons x xs ih =>
    have noTick' : Trigger.tick ∉ xs := fun h => noTick (List.mem_cons_of_mem _ h)
    cases x with
    | tick => exact absurd List.mem_cons_self noTick
    | car => simpa only [performAll, perform, performHeld_toggleCarrier] using ih noTick' (s := s.toggleCarrier) h
    | edge => simpa only [performAll, perform, performHeld_countPulse] using ih noTick' (s := s.countPulse) h

/-- Holding the members after a `TICK` and then performing what is held is performing them. -/
theorem performAll_hold {u : State} (free : u.nothingHeld) (o : Order) (i : Instr) :
    performAll (afterTick (o.restrictedTo (membersOf i))) u =
      .next (u.hold (afterTick (o.restrictedTo (membersOf i)))).performHeld := by
  have shapes : ∀ o i, afterTick (Order.restrictedTo o (membersOf i)) ∈ [[], [.car], [.edge], [.car, .edge], [.edge, .car]] := by
    intro o i
    cases o <;> cases i <;> decide
  have h := shapes o i
  simp only [List.mem_cons, List.not_mem_nil, or_false] at h
  rcases h with h | h | h | h | h <;> rw [h]
  all_goals simp only [performAll, perform, State.hold, State.performHeld, free.1, free.2, State.setHeldCar_heldCar,
    State.setHeldEdge_heldCar, State.setHeldEdge_heldEdge, Host.Outcome.next.injEq]
  · exact (released_eq free _ _).symm
  · exact (released_eq (s := u.toggleCarrier) free _ _).symm
  · show u.countPulse = (((u.setHeldCar false).setHeldEdge true).countPulse.setHeldCar false).setHeldEdge false
    rw [countPulse_held, released_eq (countPulse_nothingHeld free)]
  · show u.toggleCarrier.countPulse =
      (((u.toggleCarrier.setHeldCar true).setHeldEdge true).countPulse.setHeldCar false).setHeldEdge false
    rw [countPulse_held, released_eq (countPulse_nothingHeld (s := u.toggleCarrier) free)]
  · show u.countPulse.toggleCarrier =
      (((u.toggleCarrier.setHeldCar true).setHeldEdge true).countPulse.setHeldCar false).setHeldEdge false
    rw [countPulse_held, released_eq (countPulse_nothingHeld (s := u.toggleCarrier) free), countPulse_toggleCarrier]

/-- What is held never changes while members are performed. -/
theorem performAll_held {ops : List Trigger} {s t : State} (h : performAll ops s = .next t) :
    t.heldCar = s.heldCar ∧ t.heldEdge = s.heldEdge := by
  induction ops generalizing s with
  | nil =>
    cases h
    exact ⟨rfl, rfl⟩
  | cons x xs ih =>
    cases x with
    | car => exact ih (s := s.toggleCarrier) h
    | edge =>
      obtain ⟨hc, he⟩ := ih (s := s.countPulse) h
      obtain ⟨-, -, -, -, -, -, -, -, -, -, -, -, -, hc', he'⟩ := sameBut_fields (countPulse_sameBut s)
      exact ⟨hc.trans hc', he.trans he'⟩
    | tick =>
      simp only [performAll, perform] at h
      cases ticked : tickStep s with
      | fault r => simp [ticked] at h
      | refused r => simp [ticked] at h
      | next u =>
        simp only [ticked] at h
        obtain ⟨hc, he⟩ := ih h
        exact ⟨hc.trans (tick_effect ticked).held.1, he.trans (tick_effect ticked).held.2⟩

/-- An operation other than `RST` has, once what it holds has been performed, performed all its members. -/
theorem exec_performs {i : Instr} (notRst : i ≠ .rst) {s t : State} (free : s.nothingHeld) (h : exec i s = .next t) :
    performAll (s.inputs.order.restrictedTo (membersOf i)) (s.outWindowClosed false) = .next t.performHeld := by
  rw [exec_eq_simultaneous notRst] at h
  rcases simultaneous_cases (membersOf i) s with ⟨u, first, -, eq⟩ | ⟨-, eq⟩ <;> rw [eq] at h
  · cases h
    obtain ⟨hc, he⟩ := performAll_held first
    have whole := performAll_append (throughTick (s.inputs.order.restrictedTo (membersOf i)))
      (afterTick (s.inputs.order.restrictedTo (membersOf i))) (s.outWindowClosed false)
    rw [throughTick_append_afterTick, first] at whole
    exact whole.trans (performAll_hold ⟨hc.trans free.1, he.trans free.2⟩ _ i)
  · obtain ⟨hc, he⟩ := performAll_held h
    rw [h, performHeld_of_nothingHeld ⟨hc.trans free.1, he.trans free.2⟩]

/-- An operation without a `TICK` holds nothing. -/
theorem exec_without_tick {i : Instr} (notRst : i ≠ .rst) (noTick : performedBy .tick i = false) (s : State) :
    exec i s = performAll (s.inputs.order.restrictedTo (membersOf i)) (s.outWindowClosed false) := by
  have whole : ∀ o, throughTick (Order.restrictedTo o (membersOf i)) = o.restrictedTo (membersOf i) := by
    intro o
    revert noTick
    cases o <;> cases i <;> decide
  rw [exec_eq_simultaneous notRst]
  rcases simultaneous_cases (membersOf i) s with ⟨u, first, holds, -⟩ | ⟨-, eq⟩
  · rw [whole] at first
    have window := (members_effect first).window
    simp [noTick] at window
    simp [State.reportHolds, window] at holds
  · exact eq

/-- Everything an operation other than `RST` can do, once what it holds has been performed. -/
theorem operation_effect {i : Instr} (notRst : i ≠ .rst) {s t : State} (free : s.nothingHeld) (h : exec i s = .next t) :
    OperationEffect i s t.performHeld :=
  members_effect (exec_performs notRst free h)

/-- What the `REPORT` holds depends on nothing a `CAR` or an `EDGE` writes. -/
theorem reportHolds_of_sameBut {s t : State} (h : s.sameBut t) : t.reportHolds = s.reportHolds := by
  obtain ⟨-, -, -, wc, -, -, -, -, -, -, par, -, pend, -⟩ := sameBut_fields h
  simp only [State.reportHolds, wc, par, pend]

/-- When an operation holds a member: exactly where the member comes after the `TICK` and the `REPORT` holds it. -/
theorem operation_holds {i : Instr} (notRst : i ≠ .rst) {s t : State} (free : s.nothingHeld) (h : exec i s = .next t) :
    (t.heldCar = true ↔ performedBy .car i = true ∧ s.inputs.order.carBeforeTick = false ∧ t.reportHolds = true) ∧
    (t.heldEdge = true ↔ performedBy .edge i = true ∧ s.inputs.order.edgeBeforeTick = false ∧ t.reportHolds = true) := by
  have noneHeld : ∀ {ops}, performAll ops (s.outWindowClosed false) = .next t → t.heldCar = false ∧ t.heldEdge = false :=
    fun run => ⟨(performAll_held run).1.trans free.1, (performAll_held run).2.trans free.2⟩
  cases isTick : performedBy .tick i
  · rw [exec_without_tick notRst isTick] at h
    have window := (members_effect h).window
    simp only [isTick, Bool.false_eq_true, false_and, iff_false, Bool.not_eq_true] at window
    simp [noneHeld h, State.reportHolds, window]
  · rw [exec_eq_simultaneous notRst] at h
    rcases simultaneous_cases (membersOf i) s with ⟨u, first, holds, eq⟩ | ⟨loose, eq⟩ <;> rw [eq] at h
    · have late : ∀ o, ((afterTick (Order.restrictedTo o (membersOf i))).contains .car = (performedBy .car i && !o.carBeforeTick)) ∧
          ((afterTick (Order.restrictedTo o (membersOf i))).contains .edge = (performedBy .edge i && !o.edgeBeforeTick)) := by
        intro o
        revert isTick
        cases o <;> cases i <;> decide
      obtain ⟨hc, he⟩ := performAll_held first
      cases h
      have holds' : (u.hold (afterTick (s.inputs.order.restrictedTo (membersOf i)))).reportHolds = true := holds
      have hc' : u.heldCar = false := hc.trans free.1
      have he' : u.heldEdge = false := he.trans free.2
      rw [holds']
      simp only [State.hold, State.setHeldEdge_heldCar, State.setHeldCar_heldCar, State.setHeldEdge_heldEdge,
        hc', he', late, Bool.false_or, Bool.and_eq_true, Bool.not_eq_true', and_true, and_self]
    · have clear : t.reportHolds = false := by
        have whole := performAll_append (throughTick (s.inputs.order.restrictedTo (membersOf i)))
          (afterTick (s.inputs.order.restrictedTo (membersOf i))) (s.outWindowClosed false)
        rw [throughTick_append_afterTick, h] at whole
        cases first : performAll (throughTick (s.inputs.order.restrictedTo (membersOf i))) (s.outWindowClosed false) with
        | fault r => simp [first] at whole
        | refused r => simp [first] at whole
        | next u =>
          have noTick : Trigger.tick ∉ afterTick (s.inputs.order.restrictedTo (membersOf i)) := by
            generalize s.inputs.order = o
            cases o <;> cases i <;> decide
          obtain ⟨t', run, same, -⟩ := performAll_without_tick _ noTick u
          simp only [first, run, Host.Outcome.next.injEq] at whole
          subst whole
          exact (reportHolds_of_sameBut same).trans (loose u first)
      simp [noneHeld h, clear]

/-- What performing the held members does to the carrier, and that without a held `EDGE` the count stays. -/
theorem performHeld_values (s : State) :
    s.performHeld.carrierOut = (if s.heldCar then s.carrierOut ^^^ 1#1 else s.carrierOut) ∧
    (s.heldEdge = false → s.performHeld.pulseCount = s.pulseCount ∧ s.performHeld.faultOvf = s.faultOvf ∧
      s.performHeld.draws = s.draws) := by
  have carrier : ∀ v : State, v.countPulse.carrierOut = v.carrierOut := by
    intro v
    rcases countPulse_cases v with ⟨-, h, -⟩ | ⟨-, -, h⟩ | ⟨-, -, h⟩ | ⟨-, -, h⟩ <;> rw [h] <;> rfl
  simp only [State.performHeld]
  cases s.heldCar <;> cases s.heldEdge <;> simp [carrier, State.toggleCarrier]

/-- `TICK` neither reads nor writes what is held. -/
theorem tickStep_held (car edge : Bool) (s : State) :
    tickStep ((s.setHeldCar car).setHeldEdge edge) =
      match tickStep s with
      | .next t => .next ((t.setHeldCar car).setHeldEdge edge)
      | .fault r => .fault r
      | .refused r => .refused r := by
  have range : ((s.setHeldCar car).setHeldEdge edge).ticksInRange = s.ticksInRange := rfl
  have ticks : ((s.setHeldCar car).setHeldEdge edge).tick = (s.tick.setHeldCar car).setHeldEdge edge := by
    by_cases lo : s.tickLo + 1#4 = 10#4
    · by_cases hi : s.tickHi + 1#4 = 10#4
      · rw [tick_of_close s lo hi, tick_of_close _ (by exact lo) (by exact hi), report_eq, report_eq]
        rfl
      · rw [tick_of_carry s lo hi, tick_of_carry _ (by exact lo) (by exact hi)]
        rfl
    · rw [tick_of_lo s lo, tick_of_lo _ (by exact lo)]
      rfl
  simp only [tickStep, range, ticks]
  cases s.ticksInRange <;> rfl

theorem performAll_setHeld (car edge : Bool) (ops : List Trigger) (s : State) :
    performAll ops ((s.setHeldCar car).setHeldEdge edge) =
      match performAll ops s with
      | .next t => .next ((t.setHeldCar car).setHeldEdge edge)
      | .fault r => .fault r
      | .refused r => .refused r := by
  induction ops generalizing s with
  | nil => rfl
  | cons x xs ih =>
    cases x with
    | car => exact ih s.toggleCarrier
    | edge =>
      simp only [performAll, perform, countPulse_held]
      exact ih s.countPulse
    | tick =>
      simp only [performAll, perform, tickStep_held]
      cases tickStep s <;> simp [ih]

/-- An operation other than `RST` adds to what is held and reads nothing of it. -/
theorem exec_setHeld {i : Instr} (notRst : i ≠ .rst) (car edge : Bool) (s : State) :
    exec i ((s.setHeldCar car).setHeldEdge edge) =
      match exec i ((s.setHeldCar false).setHeldEdge false) with
      | .next t => .next ((t.setHeldCar (car || t.heldCar)).setHeldEdge (edge || t.heldEdge))
      | .fault r => .fault r
      | .refused r => .refused r := by
  have apart : ∀ c e, exec i ((s.setHeldCar c).setHeldEdge e) =
      match performAll (throughTick (s.inputs.order.restrictedTo (membersOf i))) (s.outWindowClosed false) with
      | .next u => if u.reportHolds
          then .next (((u.setHeldCar c).setHeldEdge e).hold (afterTick (s.inputs.order.restrictedTo (membersOf i))))
          else performAll (afterTick (s.inputs.order.restrictedTo (membersOf i))) ((u.setHeldCar c).setHeldEdge e)
      | .fault r => .fault r
      | .refused r => .refused r := by
    intro c e
    rw [exec_eq_simultaneous notRst]
    have swap : ((s.setHeldCar c).setHeldEdge e).outWindowClosed false =
        ((s.outWindowClosed false).setHeldCar c).setHeldEdge e := rfl
    have same : ∀ u : State, ((u.setHeldCar c).setHeldEdge e).reportHolds = u.reportHolds := fun _ => rfl
    simp only [simultaneous, State.setHeldEdge_inputs, State.setHeldCar_inputs, swap, performAll_setHeld]
    cases performAll (throughTick (s.inputs.order.restrictedTo (membersOf i))) (s.outWindowClosed false) <;> simp only [same, performAll_setHeld]
  rw [apart, apart]
  cases performAll (throughTick (s.inputs.order.restrictedTo (membersOf i))) (s.outWindowClosed false) with
  | fault r => rfl
  | refused r => rfl
  | next u =>
    cases holds : u.reportHolds
    · simp only [holds, Bool.false_eq_true, if_false, performAll_setHeld]
      cases run : performAll (afterTick (s.inputs.order.restrictedTo (membersOf i))) u with
      | next t =>
        have h := performAll_held run
        simp only [Host.Outcome.next.injEq]
        simp [State.setHeldCar, State.setHeldEdge]
      | fault r => rfl
      | refused r => rfl
    · simp [holds, State.hold, State.setHeldCar, State.setHeldEdge]

/-! ### A step -/

/-- A word without the reset bit performs the operations of its set bits (rules R71 and R72). -/
theorem performedBy_decode {ew : EventWord} (h : EventWord.rst ew = false) (t : Trigger) (inputs : Inputs) :
    performedBy t (decode ew) = Stimulus.performs t (.event ew inputs) := by
  cases t <;> simp only [Stimulus.performs] <;> revert ew <;> decide

/-- The members a step performs are performed on the settled state: what is held joins them, before or after. -/
theorem deliverEvent_settles {ew : EventWord} {inputs : Inputs} {s t : State} (noRst : EventWord.rst ew = false)
    (h : deliverEvent ew inputs s = .next t) :
    performAll (inputs.order.restrictedTo (membersOf (decode ew))) ((s.performHeld.setInputs inputs).outWindowClosed false) =
      .next t.performHeld := by
  obtain ⟨free, done⟩ := deliverEvent_next h
  by_cases held : s.nothingHeld
  · rw [performHeld_of_nothingHeld held]
    exact exec_performs (s := s.setInputs inputs) (decode_ne_rst noRst) held done
  · have runs : s.reportRuns = true := by
      simp only [State.nothingHeld, not_and_or, Bool.not_eq_false] at held
      rcases held with h | h <;> simp [State.reportRuns, h]
    have noTick : performedBy .tick (decode ew) = false := by
      rw [performedBy_decode noRst .tick inputs]
      simp only [State.reportExcludes, runs, noRst] at free
      cases mode : s.params.reportBlocks <;> simp_all [Stimulus.performs]
    rw [exec_without_tick (decode_ne_rst noRst) noTick] at done
    rw [← performHeld_setInputs, ← performHeld_outWindowClosed]
    refine performAll_performHeld _ (fun h => ?_) done
    simp [(mem_membersOf .tick (decode ew)).mp (mem_restrictedTo h)] at noTick

theorem serialTx_cases (s : State) :
    (s.txPending = [] ∧ s.serialTx = s) ∨
    ∃ b bs, s.txPending = b :: bs ∧ s.serialTx = (s.setTxPending bs).setTxSent (s.txSent ++ [b]) := by
  cases h : s.txPending <;> simp [State.serialTx, h]

/-- What an iteration of the main loop can do (rules R144 and R153). -/
theorem mainLoop_cases (s : State) :
    s.mainLoop = s ∨
    ∃ b bs, s.reportRuns = false ∧ s.rxQueue = b :: bs ∧ s.mainLoop = (s.setRxQueue bs).rxByte b := by
  simp only [State.mainLoop]
  cases s.reportRuns <;> cases s.rxQueue <;> simp

/-- A byte changes the parser and the setpoint at most. -/
theorem rxByte_sameBut (s : State) (b : Byte) :
    s.rxByte b = { s with parser := (s.rxByte b).parser, dacH := (s.rxByte b).dacH, dacL := (s.rxByte b).dacL } := by
  cases h : s.parser <;> simp only [State.rxByte, h] <;> (try split) <;> rfl

/-- The return of a `SerialTx` is, on the settled state, the byte sent and nothing else. -/
theorem performHeld_serialTxReturns (s : State) : s.serialTxReturns.performHeld = s.performHeld.serialTx := by
  simp only [State.serialTxReturns]
  split
  · rw [performHeld_of_nothingHeld (performHeld_nothingHeld _), performHeld_serialTx]
  · exact performHeld_serialTx s

/-- Everything a step that is no reset can do to the settled states before and after it: the members of an operation of the block on the
rest of the trace, or a step of the adjacent layer, which leaves the block and only moves waiting bytes along. -/
theorem step_effect {s t : State} (h : step s = .next t) (noRst : noReset (s.trace.take 1) = true) :
    (∃ ew inputs rest, s.trace = .event ew inputs :: rest ∧ s.reportExcludes ew = false ∧ EventWord.rst ew = false ∧
      OperationEffect (decode ew) { s.performHeld with trace := rest, inputs := inputs } t.performHeld) ∨
    (∃ x rest, s.trace = x :: rest ∧ x.ofBlock = false ∧ t.trace = rest ∧ s.performHeld.sameBlock t.performHeld ∧
      t.inputs = s.inputs ∧ t.txSent ++ t.txPending = s.txSent ++ s.txPending ∧ t.txPending.length ≤ s.txPending.length) := by
  obtain ⟨x, rest, next, effect⟩ := step_next h
  cases x with
  | event ew inputs =>
    left
    have hr : EventWord.rst ew = false := by simpa [next, noReset, Stimulus.resets] using noRst
    have done := deliverEvent_settles hr effect
    rw [performHeld_setTrace] at done
    exact ⟨ew, inputs, rest, next, (deliverEvent_next effect).1, hr, members_effect done⟩
  | txEmpty =>
    right
    refine ⟨_, rest, next, rfl, ?_⟩
    simp only [deliver, Host.Outcome.next.injEq] at effect
    have settled := performHeld_serialTxReturns (s.setTrace rest)
    rw [effect, performHeld_setTrace] at settled
    have fields := sameBut_fields (performHeld_sameBut t)
    have before := sameBut_fields (performHeld_sameBut s)
    rcases serialTx_cases (s.performHeld.setTrace rest) with ⟨h, eq⟩ | ⟨b, bs, h, eq⟩ <;> rw [eq] at settled <;>
      rw [settled] at fields <;> simp_all [State.sameBlock]
    rw [← fields.2.2.2.2.2.2.2.2.2.2.2.1]
    simp
  | rxByte b =>
    right
    refine ⟨_, rest, next, rfl, ?_⟩
    simp only [deliver, Host.Outcome.next.injEq] at effect
    subst effect
    rw [performHeld_setRxQueue, performHeld_setTrace]
    simp [State.sameBlock]
  | mainLoop =>
    right
    refine ⟨_, rest, next, rfl, ?_⟩
    simp only [deliver, Host.Outcome.next.injEq] at effect
    subst effect
    rcases mainLoop_cases (s.setTrace rest) with eq | ⟨b, bs, -, -, eq⟩ <;> rw [eq]
    · rw [performHeld_setTrace]
      simp [State.sameBlock]
    · rw [performHeld_rxByte, performHeld_setRxQueue, performHeld_setTrace, rxByte_sameBut ((s.setTrace rest).setRxQueue bs) b,
        rxByte_sameBut ((s.performHeld.setTrace rest).setRxQueue bs) b]
      simp [State.sameBlock]

end Sys2Proof.Machine
end

