-- ==== Sys2Proof/Laws/PerInstr.lean ====
section
/-!
SUPPORT. What holds of every operation as syntax: it is well formed, and exactly one row of the decode table, its own, selects its word.
-/

namespace Sys2Proof.Laws.OneRowEach

/-- The operation is well formed, its row is in the decode table, and no other row selects its event word. -/
def Statement (i : Instr) : Prop :=
  i.wellFormed = true ∧ (opcodeTable.filter fun r => r.selects (encode i)).map OpcodeRow.instr = [i]

theorem nop : Statement .nop := by unfold Statement; decide
theorem car : Statement .car := by unfold Statement; decide
theorem edge : Statement .edge := by unfold Statement; decide
theorem simCE : Statement .simCE := by unfold Statement; decide
theorem tick : Statement .tick := by unfold Statement; decide
theorem simCT : Statement .simCT := by unfold Statement; decide
theorem simET : Statement .simET := by unfold Statement; decide
theorem simCET : Statement .simCET := by unfold Statement; decide
theorem rst : Statement .rst := by unfold Statement; decide

end Sys2Proof.Laws.OneRowEach
end

