-- ==== Sys2Proof/Tests/Slice0.lean ====
section
/-!
SUPPORT. Tests of one step each, with the vectors of spec/95_test_vectors.md as the expected results, and for every statement with
hypotheses a witness that meets them.
-/

namespace Sys2Proof.Tests

open Sys2Proof.Machine

/-! ### Helpers -/

/-- A state as 95_test_vectors.md writes it: (`TICK_HI`, `TICK_LO`, `PULSE_COUNT`, `SPEED`, `CARRIER_OUT`). -/
def at5 (hi lo : TickCount) (pulse speed : Pulse) (carrier : Bit) : State :=
  { State.reset with tickHi := hi, tickLo := lo, pulseCount := pulse, speed := speed, carrierOut := carrier }

/-- The same with the environment's order chosen. -/
def at5In (o : Order) (hi lo : TickCount) (pulse speed : Pulse) (carrier : Bit) : State :=
  { at5 hi lo pulse speed carrier with inputs := { Inputs.initial with order := o } }

/-- The same with another `OVF_MODE`. -/
def at5Mode (m : OvfMode) (hi lo : TickCount) (pulse speed : Pulse) (carrier : Bit) : State :=
  { at5 hi lo pulse speed carrier with params := { Params.suggested with ovfMode := m } }

/-- What a vector shows of a state: the five registers in the vector's order, and `wc`. -/
structure Shown where
  hi : TickCount
  lo : TickCount
  pulse : Pulse
  speed : Pulse
  carrier : Bit
  wc : Bool
  deriving DecidableEq, Repr

/-- What a vector shows of an outcome. -/
def shown : Host.Outcome State Fault Refusal → Option Shown
  | .next s => some ⟨s.tickHi, s.tickLo, s.pulseCount, s.speed, s.carrierOut, s.windowClosed⟩
  | .fault _ => none
  | .refused _ => none

/-- One piece of the next state, if there is one. -/
def nextOf {α : Type} (f : State → α) : Host.Outcome State Fault Refusal → Option α
  | .next s => some (f s)
  | .fault _ => none
  | .refused _ => none

/-- The refusal, if there is one. -/
def refusalOf : Host.Outcome State Fault Refusal → Option Refusal
  | .next _ => none
  | .fault _ => none
  | .refused r => some r

/-- The fault, if there is one. -/
def faultOf : Host.Outcome State Fault Refusal → Option Fault
  | .next _ => none
  | .fault r => some r
  | .refused _ => none

/-- An event word under the initial choices of the environment. -/
def ev (w : EventWord) : Stimulus := .event w Inputs.initial

/-- A packet of which nothing has been sent yet. -/
def waitingPacket : List Byte := packet 7#16 Inputs.initial.sensors

/-- A state in which a whole packet waits. -/
def reporting : State := { State.reset with txPending := waitingPacket }

/-- The state before a step whose channel is not ready. -/
def notReady : State := { at5 9 9 7 0 0 with inputs := { Inputs.initial with txReady := 2 } }

/-- The state before a step from the window's last position, whose `REPORT` gets two of its bytes out within the step, under a value of
`REPORT_BLOCKS_TRIGGERS` and an order. -/
def stalling (b : ReportBlocks) (o : Order) : State :=
  { at5 9 9 4 9 0 with
    inputs := { Inputs.initial with order := o, txReady := 2 }, params := { Params.suggested with reportBlocks := b } }

/-- A state in which an `EDGE` waits for the last byte of a packet. -/
def holding : State :=
  { reporting with txPending := [7], heldEdge := true, params := { Params.suggested with reportBlocks := .all } }

/-- The parser in a given state, AnalogSetpoint = 0x1122, and bytes to receive. -/
def parsing (p : ParserState) (bs : List Byte) : State :=
  { State.reset with parser := p, dacH := 0x11#8, dacL := 0x22#8, rxQueue := bs, trace := [.mainLoop] }

/-! ### Decoding (95_test_vectors.md section 2.1), each word written out bit by bit from rule R71 -/

theorem test_decode_nop : decode 0b0000#4 = .nop := by decide
theorem test_decode_car : decode 0b0001#4 = .car := by decide
theorem test_decode_edge : decode 0b0010#4 = .edge := by decide
theorem test_decode_simCE : decode 0b0011#4 = .simCE := by decide
theorem test_decode_tick : decode 0b0100#4 = .tick := by decide
theorem test_decode_simCT : decode 0b0101#4 = .simCT := by decide
theorem test_decode_simET : decode 0b0110#4 = .simET := by decide
theorem test_decode_simCET : decode 0b0111#4 = .simCET := by decide
theorem test_decode_rst : decode 0b1000#4 = .rst ∧ decode 0b1111#4 = .rst := by decide

/-- A byte with a bit above the event word is refused by name, and so is a table word of that kind. -/
theorem test_decode_refuses_more_than_four_bits :
    decodeTableWord 8 0x10 = none ∧ decodeTableWord 4 6 = some .simET ∧ decodeTableWord 8 0xF = some .rst := by decide

/-! ### Well-formedness: an ill-formed term for each check -/

/-- `CAR[E<T]`: the order annotation is for forms with both `E` and `T`. -/
theorem test_wellFormed_refuses_annotated_car : (Trace.op .car (some .edgeFirst)).wellFormed = false := by decide

/-- The annotation is found inside sequences and repetitions. -/
theorem test_wellFormed_refuses_inside :
    (Trace.seq .window (.times (.op .tick (some .tickFirst)) 3)).wellFormed = false := by decide

theorem test_wellFormed_accepts_annotated_simET : (Trace.op .simET (some .tickFirst)).wellFormed = true := by decide

/-- The words 9 to F are never emitted (rule R77). -/
theorem test_emitted_refuses_nine : EventWord.emitted 0b1001#4 = false ∧ EventWord.emitted 0b1000#4 = true := by decide

/-! ### Written traces (rule R77) -/

/-- Program P1, `RST ; CAR *5`, is `811111`. -/
theorem test_read_P1 :
    (readTrace ['R', 'S', 'T', ' ', ';', ' ', 'C', 'A', 'R', ' ', '*', '5']).map Trace.assemble =
      some [8#4, 1#4, 1#4, 1#4, 1#4, 1#4] := by decide

/-- A bracketed repetition, a comment, an annotation and `PULSES`. -/
theorem test_read_group :
    (readTrace ([Char.ofNat 123, 'S', 'I', 'M', '.', 'E', 'T', '[', 'T', '<', 'E', ']', ';', 'N', 'O', 'P', Char.ofNat 125,
        '*', '2', '#', ';', '\n', 'P', 'U', 'L', 'S', 'E', 'S', ' ', '2'])).map Trace.assemble =
      some [6#4, 0#4, 6#4, 0#4, 2#4, 2#4] := by decide

/-- `SIM.ET[T<E]` is presented with an order that puts `TICK` first, and without annotation the environment's order stands. -/
theorem test_schedule_annotated :
    (readTrace ['S', 'I', 'M', '.', 'E', 'T', '[', 'T', '<', 'E', ']', ';', 'S', 'I', 'M', '.', 'E', 'T']).map
        (scheduleOf fun _ => Inputs.initial) =
      some [.event 6 { Inputs.initial with order := .cte }, .event 6 Inputs.initial] := by decide

/-- The worked example of rule R130 by its annotations (rule R77), under an environment whose own order is the other one. -/
theorem test_annotations_choose_the_order :
    shown (step ((at5 9 9 4 9 0).load (fun _ => { Inputs.initial with order := .tec }) (.op .simET (some .edgeFirst)))) =
        some ⟨0, 0, 0, 5, 0, true⟩ ∧
      shown (step ((at5 9 9 4 9 0).load (fun _ => { Inputs.initial with order := .etc }) (.op .simET (some .tickFirst)))) =
        some ⟨0, 0, 1, 4, 0, true⟩ := by decide

/-- An annotation on an operation whose order cannot matter is refused. -/
theorem test_read_refuses_ill_formed :
    readTrace ['C', 'A', 'R', '[', 'E', '<', 'T', ']'] = none ∧ readTrace ['C', 'A', 'R', ' ', 'C', 'A', 'R'] = none := by
  decide

/-! ### The operations -/

/-- Section 2.2, last row. -/
theorem test_car : shown (exec .car (at5 4 7 12 30 1)) = some ⟨4, 7, 12, 30, 0, false⟩ := by decide

/-- Section 2.3: carry across the byte boundary. -/
theorem test_edge_carry : shown (exec .edge (at5 3 4 0x00FF 9 1)) = some ⟨3, 4, 0x0100, 9, 1, false⟩ := by decide

/-- Section 2.3: the overflow case under `fault` records the fault, and under `wrap` gives 0. -/
theorem test_edge_overflow :
    nextOf State.faultOvf (exec .edge (at5 0 0 65535 0 0)) = some true ∧
      shown (exec .edge (at5Mode .wrap 0 0 65535 0 0)) = some ⟨0, 0, 0, 0, 0, false⟩ ∧
      shown (exec .edge (at5Mode .saturate 0 0 65535 0 0)) = some ⟨0, 0, 65535, 0, 0, false⟩ := by decide

/-- Section 2.4: a decade carries and closes no window; the window closes. -/
theorem test_tick :
    shown (exec .tick (at5 8 9 5 9 0)) = some ⟨9, 0, 5, 9, 0, false⟩ ∧
      shown (exec .tick (at5 9 9 37 12 0)) = some ⟨0, 0, 0, 37, 0, true⟩ := by decide

/-- Section 2.4: the refused states. -/
theorem test_tick_refused :
    refusalOf (exec .tick (at5 10 0 0 0 0)) = some .tickCounterOutOfRange ∧
      refusalOf (exec .simCET (at5 0 10 0 0 0)) = some .tickCounterOutOfRange := by decide

/-- Section 2.5. -/
theorem test_nop : shown (exec .nop (at5 9 9 5 3 1)) = some ⟨9, 9, 5, 3, 1, false⟩ := by decide

/-- Section 2.6: `SIM.CE` and `SIM.CT`. -/
theorem test_simCE : shown (exec .simCE (at5In .ect 9 9 4 9 0)) = some ⟨9, 9, 5, 9, 1, false⟩ := by decide
theorem test_simCT : shown (exec .simCT (at5In .tce 9 9 4 9 0)) = some ⟨0, 0, 0, 4, 1, true⟩ := by decide

/-- Section 2.6: both orders of `SIM.ET` at the end of the window. -/
theorem test_simET_orders :
    shown (exec .simET (at5In .etc 9 9 4 9 0)) = some ⟨0, 0, 0, 5, 0, true⟩ ∧
      shown (exec .simET (at5In .tec 9 9 4 9 0)) = some ⟨0, 0, 1, 4, 0, true⟩ := by decide

/-- Section 2.6: at the overflow boundary `T<E` meets no overflow and `E<T` does. -/
theorem test_simET_overflow_boundary :
    shown (exec .simET (at5In .tce 9 9 65535 9 0)) = some ⟨0, 0, 1, 65535, 0, true⟩ ∧
      nextOf State.faultOvf (exec .simET (at5In .ect 9 9 65535 9 0)) = some true := by decide

/-- Section 2.6: both orders of `SIM.CET` at the end of the window. -/
theorem test_simCET_orders :
    shown (exec .simCET (at5In .cet 9 9 4 9 0)) = some ⟨0, 0, 0, 5, 1, true⟩ ∧
      shown (exec .simCET (at5In .tce 9 9 4 9 0)) = some ⟨0, 0, 1, 4, 1, true⟩ := by decide

/-- Section 2.1: the word F from (9,9,5,3,1) is a reset; the fault record survives (section 2.7). -/
theorem test_rst :
    shown (step { at5 9 9 5 3 1 with trace := [ev 0xF] }) = some ⟨0, 0, 0, 0, 0, false⟩ ∧
      nextOf State.faultOvf (exec .rst { at5 6 0 5 0 1 with faultOvf := true }) = some true := by decide

/-! ### One step of the machine -/

/-- A placed word is the next operation, from reset. -/
theorem test_withFetchWord : shown (step (State.reset.withFetchWord 8 1)) = some ⟨0, 0, 0, 0, 1, false⟩ := by decide

/-- A trigger excluded by a running report is still placed so that the next step runs it. -/
theorem test_withFetchWord_while_reporting :
    shown (step (reporting.withFetchWord 8 4)) = some ⟨0, 1, 0, 0, 0, false⟩ := by decide

/-- The run ends with its trace (rule R12). -/
theorem test_end_of_trace : refusalOf (step State.reset) = some .traceEnded := by decide

/-- While a packet waits, `TICK` is excluded and `EDGE` is not (`tick_only`, decision D25); a reset is never excluded. -/
theorem test_report_excludes :
    faultOf (step { reporting with trace := [ev 4] }) = some .reportStalled ∧
      shown (step { reporting with trace := [ev 2] }) = some ⟨0, 0, 1, 0, 0, false⟩ ∧
      shown (step { reporting with trace := [ev 0xC] }) = some ⟨0, 0, 0, 0, 0, false⟩ := by decide

/-- Under `all`, an `EDGE` is excluded too. -/
theorem test_report_excludes_all :
    faultOf (step { reporting with trace := [ev 2], params := { Params.suggested with reportBlocks := .all } }) =
      some .reportStalled := by decide

/-- Under `all` an `EDGE` ordered after the closing `TICK` waits for the `REPORT`, ordered before it it does not; under `tick_only` it is
performed at once (log entry 18). -/
theorem test_member_after_the_closing_tick :
    shown (exec .simET (stalling .all .tec)) = some ⟨0, 0, 0, 4, 0, true⟩ ∧
      shown (exec .simET (stalling .all .etc)) = some ⟨0, 0, 0, 5, 0, true⟩ ∧
      shown (exec .simET (stalling .tickOnly .tec)) = some ⟨0, 0, 1, 4, 0, true⟩ := by decide

/-- A `CAR` waits likewise, and one ordered before the `TICK` does not. -/
theorem test_car_after_the_closing_tick :
    nextOf (fun s => (s.carrierOut, s.heldCar, s.heldEdge)) (exec .simCET (stalling .all .tce)) = some (0, true, true) ∧
      nextOf (fun s => (s.carrierOut, s.heldCar, s.heldEdge)) (exec .simCET (stalling .all .cte)) = some (1, false, true) := by decide

/-- The last `SerialTx` lets the `EDGE` that waited take its turn, and until then an `EDGE` word is excluded. -/
theorem test_last_serialTx :
    nextOf (fun s => (s.pulseCount, s.heldEdge, s.txSent)) (step { holding with trace := [.txEmpty] }) = some (1, false, [7]) ∧
      faultOf (step { holding with trace := [ev 2] }) = some .reportStalled ∧
      nextOf (fun s => (s.pulseCount, s.heldEdge)) (step { holding with trace := [ev 8] }) = some (0, false) := by decide

/-! ### The adjacent layer -/

/-- Section 2.8, first row: sensors 8, 1, 2, 5 and 7. -/
theorem test_packet :
    packet 0x1234 ⟨true, true, false, false, true, false, true, true, false⟩ =
      [0xFF, 0xFF, 0x12, 0x34, 0x01, 0x65] := by decide

/-- Section 2.8, fourth and eighth rows. -/
theorem test_packet_sensors :
    packet 0x0100 ⟨false, false, false, false, false, false, false, false, true⟩ = [0xFF, 0xFF, 0x01, 0x00, 0x00, 0x80] ∧
      packet 0x0002 ⟨false, true, true, true, true, true, false, false, false⟩ =
        [0xFF, 0xFF, 0x00, 0x02, 0x00, 0x3E] := by decide

/-- The closing `TICK` sends the packet of the captured count (program P3, step 107). -/
theorem test_report :
    nextOf State.txSent (exec .tick (at5 9 9 7 0 0)) = some [0xFF, 0xFF, 0x00, 0x07, 0x00, 0x00] := by decide

/-- A channel ready for two bytes only leaves four waiting (rule R142). -/
theorem test_report_waits :
    nextOf (fun s => (s.txSent, s.txPending)) (exec .tick notReady) =
      some ([0xFF, 0xFF], [0x00, 0x07, 0x00, 0x00]) := by decide

/-- The next `SerialTx` returns. -/
theorem test_txEmpty :
    nextOf (fun s => (s.txSent, s.txPending.length)) (step { reporting with trace := [.txEmpty] }) =
      some ([0xFF], 5) := by decide

/-- Section 2.9, vectors A6, A7 and A12. -/
theorem test_parser_vectors :
    (let s := (parsing .idle []).rxBytes [0xDD, 0xDD, 0xDD]; (s.parser, s.analogSetpoint)) = (.lowByte, 0xDD22) ∧
      (let s := (parsing .idle []).rxBytes [0xDD, 0xDD, 0xDD, 0xDD]; (s.parser, s.analogSetpoint)) = (.idle, 0xDDDD) ∧
      (let s := (parsing .idle []).rxBytes [0xDD, 0xDD, 0x00, 0xDD, 0xDD, 0xDD, 0x7F, 0xFF];
        (s.parser, s.analogSetpoint)) = (.idle, 0x7FFF) := by decide

/-- Section 2.9, vector A2: the stray marker is discarded. -/
theorem test_parser_resynchronises :
    (let s := (parsing .idle []).rxBytes [0xDD, 0x01, 0xDD, 0xDD, 0x05, 0xA0]; (s.parser, s.analogSetpoint)) =
      (.idle, 0x05A0) := by decide

/-- The worked example of rule R148, by a step of the main loop. -/
theorem test_mainLoop :
    nextOf (fun s => (s.parser, s.analogSetpoint, s.rxQueue)) (step (parsing .highByte [0x05, 0xA0])) =
      some (.lowByte, 0x0522, [0xA0]) := by decide

/-- The pin (rule R111). -/
theorem test_pin :
    pinStimuli true false Inputs.initial = [ev 2] ∧ pinStimuli false true Inputs.initial = [] := by decide

/-! ### Witnesses: each meets all hypotheses of the statement it is named after, at boundary values where the statement has several
clauses -/

/-- The two ends of the range of emitted words. -/
theorem witness_DecodeEncodeAgree : EventWord.emitted 0 = true ∧ EventWord.emitted 8 = true := by decide

theorem witness_WrittenTraceExpandsAndAssembles :
    (Trace.seq (.op .rst none) (.times (.pulses 2) 1)).assemble = [8, 2, 2] := by decide

theorem witness_StepRunsTheDecodedOperation :
    ({ reporting with trace := [ev 3, .txEmpty] }).trace = ev 3 :: [.txEmpty] ∧
      ({ reporting with trace := [ev 3, .txEmpty] }).reportExcludes 3 = false := by decide

theorem witness_PlacedWordIsTheNextOperation :
    decodeTableWord 8 15 = some .rst ∧ reporting.reportExcludes (BitVec.ofNat 4 15) = false ∧
      decodeTableWord 4 0 = some .nop ∧ State.reset.reportExcludes (BitVec.ofNat 4 0) = false := by decide

theorem witness_ResetWordDiscardsItsTriggers :
    ({ reporting with trace := [ev 0xF, ev 4] }).trace = ev 0xF :: [ev 4] ∧ (0xF#4).getLsbD 3 = true := by decide

/-- Each alternative: without an annotation, and with one that agrees with the environment's order and one that does not. -/
theorem witness_AnnotationsChooseTheOrder :
    (Trace.op .simET (some .tickFirst)).expand[0]? = some (.simET, some .tickFirst) ∧
      (Trace.op .simCET (some .edgeFirst)).expand[0]? = some (.simCET, some .edgeFirst) ∧
      Trace.window.expand[99]? = some (.tick, none) ∧ Inputs.initial.order.edgeBeforeTick = true ∧
      Order.cet.annotated (some .tickFirst) = .cte ∧ Order.cet.annotated (some .edgeFirst) = .cet := by decide

theorem witness_AnnotatedFormsRunInTheOrderWritten :
    (at5 9 9 65534 9 0).reportRuns = false ∧ (at5 9 9 65534 9 0).tickLo = 9#4 ∧ (at5 9 9 65534 9 0).tickHi = 9#4 ∧
      (at5 9 9 65534 9 0).pulseCount.toNat < 65535 := by decide

/-- Both values of the parameter, and a word on each side of what each excludes. -/
theorem witness_RunningReportExcludesTriggers :
    (reporting.txPending ≠ [] ∧ reporting.reportExcludes 4 = true ∧ reporting.reportExcludes 3 = false) ∧
      (holding.heldEdge = true ∧ holding.reportExcludes 2 = true) ∧
      ({ reporting with params := { Params.suggested with reportBlocks := .all } }).reportExcludes 1 = true ∧
      ({ reporting with params := { Params.suggested with reportBlocks := .all } }).reportExcludes 0 = false ∧
      ({ reporting with params := { Params.suggested with reportBlocks := .all } }).reportExcludes 8 = false := by decide

theorem witness_StepTakesOneItemOfTheTrace :
    nextOf State.trace (step { State.reset with trace := [ev 1, ev 4] }) = some [ev 4] := by decide

theorem witness_CarTogglesTheCarrier :
    (exec .simCET (at5 2 3 4 9 0)) = .next { (at5 2 4 5 9 1) with windowClosed := false } := by rfl

theorem witness_EdgeAddsOneBelowTheMaximum : (at5 0 0 65534 0 0).pulseCount.toNat < 65535 := by decide

theorem witness_EdgeAtTheMaximumFollowsOvfMode :
    (at5Mode .fault 0 0 65535 0 0).pulseCount = 65535#16 ∧ (at5Mode .wrap 0 0 65535 0 0).params.ovfMode = .wrap ∧
      (at5Mode .saturate 0 0 65535 0 0).params.ovfMode = .saturate := by decide

/-- A position of each clause: (0, 8), the last of a decade's steps, and (8, 9), the last carry. -/
theorem witness_TickAdvancesTheCascade :
    ((at5 0 8 5 9 0).tickLo.toNat < 9 ∧ (at5 0 8 5 9 0).tickHi.toNat ≤ 9) ∧
      (at5 8 9 5 9 0).tickLo.toNat = 9 ∧ (at5 8 9 5 9 0).tickHi.toNat < 9 := by decide

theorem witness_TickClosesTheWindowAndCaptures :
    notReady.tickLo = 9#4 ∧ notReady.tickHi = 9#4 := by decide

/-- Both sides of the equivalence: (9, 9) is not refused and (9, 10) is. -/
theorem witness_TickRefusesUnreachableCounters :
    refusalOf (exec .tick (at5 9 9 0 0 0)) = none ∧
      refusalOf (exec .tick (at5 9 10 0 0 0)) = some .tickCounterOutOfRange := by decide

theorem witness_SimCEIsCarAndEdge : (at5In .ect 0 0 65534 0 0).pulseCount.toNat < 65535 := by decide

theorem witness_SimCTIsCarAndTick : (at5In .tce 9 9 4 9 0).tickLo.toNat ≤ 9 ∧ (at5In .tce 9 9 4 9 0).tickHi.toNat ≤ 9 := by
  decide

theorem witness_SimETIsEdgeAndTickInTheChosenOrder :
    ((at5In .etc 9 9 4 9 0).inputs.order.edgeBeforeTick = true ∧ (at5In .etc 9 9 4 9 0).tickLo.toNat ≤ 9 ∧
      (at5In .etc 9 9 4 9 0).tickHi.toNat ≤ 9) ∧
      (at5In .tec 0 0 4 9 0).inputs.order.edgeBeforeTick = false ∧ (at5In .tec 0 0 4 9 0).tickLo.toNat ≤ 9 ∧
      (at5In .tec 0 0 4 9 0).tickHi.toNat ≤ 9 := by decide

theorem witness_SimCETIsSimETWithTheCarrierToggled :
    (at5In .cte 9 0 4 9 0).tickLo.toNat ≤ 9 ∧ (at5In .cte 9 0 4 9 0).tickHi.toNat ≤ 9 := by decide

theorem witness_EveryOrderOfTheMembersIsAdmitted : Order.restrictedTo .tec [.edge, .tick] = [.tick, .edge] := by decide

theorem witness_EdgeWithTheClosingTickIsCountedOnce :
    (at5In .tec 9 9 65534 9 0).nothingHeld ∧ (at5In .tec 9 9 65534 9 0).tickLo = 9#4 ∧ (at5In .tec 9 9 65534 9 0).tickHi = 9#4 ∧
      (at5In .tec 9 9 65534 9 0).pulseCount.toNat < 65535 := by decide

/-- Each side of the equivalences: an `EDGE` and a `CAR` that wait, and none that does. -/
theorem witness_MembersAfterAClosingTickWait :
    (stalling .all .tec).nothingHeld ∧ nextOf State.heldEdge (exec .simET (stalling .all .tec)) = some true ∧
      nextOf State.heldCar (exec .simCT (stalling .all .tce)) = some true ∧
      nextOf State.heldEdge (exec .simET (stalling .all .etc)) = some false := by decide

/-- A step that holds its `EDGE`, and one that follows with an `EDGE` held. -/
theorem witness_HeldMembersAreOnlyDelayed :
    ((6#4).getLsbD 3 = false ∧ nextOf State.heldEdge
      (step { stalling .all .tec with trace := [.event 6 (stalling .all .tec).inputs] }) = some true) ∧
      nextOf State.heldEdge (step { holding with trace := [ev 0] }) = some true := by decide

theorem witness_CarCommutesWithEveryOperationButRst :
    Instr.rst ∉ [Instr.simCET, .tick] ∧
      nextOf State.carrierOut (execAll ([.simCET, .tick] ++ [.car]) (stalling .all .tce)) = some 1 := by decide

/-- Both sides of the equivalence: (8, 9) and (9, 9). -/
theorem witness_EdgeAndTickCommuteExactlyOffTheWindowEnd :
    ((at5 8 9 4 9 0).tickLo.toNat ≤ 9 ∧ (at5 8 9 4 9 0).tickHi.toNat ≤ 9) ∧
      shown (performAll [.edge, .tick] (at5 8 9 4 9 0)) = shown (performAll [.tick, .edge] (at5 8 9 4 9 0)) ∧
      shown (performAll [.edge, .tick] (at5 9 9 4 9 0)) ≠ shown (performAll [.tick, .edge] (at5 9 9 4 9 0)) := by decide

theorem witness_IdempotentOperations :
    shown (exec .rst (at5 6 0 5 0 1)) = some ⟨0, 0, 0, 0, 0, false⟩ ∧
      shown (exec .car (at5 0 0 0 0 0)) = some ⟨0, 0, 0, 0, 1, false⟩ := by decide

/-- A next state under each antecedent of the frame: an operation without `CAR`, one without `EDGE`, one without `TICK`, each with no window
closed. -/
theorem witness_OnlyTheNamedOperationsWriteARegister :
    (performedBy .car .simET = false ∧ shown (exec .simET (at5 8 9 4 9 1)) = some ⟨9, 0, 5, 9, 1, false⟩) ∧
      (performedBy .edge .simCT = false ∧ shown (exec .simCT (at5 9 8 4 9 1)) = some ⟨9, 9, 4, 9, 0, false⟩) ∧
      performedBy .tick .simCE = false ∧ shown (exec .simCE (at5 9 9 4 9 1)) = some ⟨9, 9, 5, 9, 0, false⟩ := by decide

/-- A window that closes and one that does not, from a state with a busy adjacent layer. -/
theorem witness_OperationsLeaveTheAdjacentLayer :
    nextOf (fun s => (s.parser, s.dacH, s.rxQueue, s.windowClosed)) (exec .tick { parsing .lowByte [3] with tickHi := 9, tickLo := 9 }) =
        some (.lowByte, 0x11, [3], true) ∧
      nextOf (fun s => (s.txPending, s.windowClosed)) (exec .tick reporting) = some (waitingPacket, false) := by decide

/-- Two states the block cannot tell apart that differ in the adjacent layer. -/
theorem witness_BlockCannotSeeTheAdjacentLayer :
    State.reset.nothingHeld ∧ (parsing .lowByte [3]).nothingHeld ∧ State.reset.sameBlock (parsing .lowByte [3]) ∧
      reporting ≠ State.reset := by
  unfold State.sameBlock
  decide

theorem witness_AdjacentStepsLeaveTheBlock :
    (parsing .idle [0xDD]).trace = .mainLoop :: [] ∧ Stimulus.ofBlock .mainLoop = false ∧
      nextOf State.parser (step (parsing .idle [0xDD])) = some .sync1 ∧
      ({ holding with trace := [.txEmpty] }).trace = .txEmpty :: [] ∧ Stimulus.ofBlock .txEmpty = false := by decide

/-- Both alternatives of the hypothesis: counters at 9, and an operation without `TICK` with a counter above 9. -/
theorem witness_EveryOperationCompletes :
    shown (exec .simCET (at5In .tec 9 9 65535 0 0)) = some ⟨0, 0, 1, 65535, 1, true⟩ ∧
      shown (exec .simCE (at5 15 15 0 0 0)) = some ⟨15, 15, 1, 0, 1, false⟩ := by decide

/-- A decade that carries and a window that closes. -/
theorem witness_TickCountersStayInRangeAndCountUp :
    shown (step { at5 0 9 5 9 0 with trace := [ev 4] }) = some ⟨1, 0, 5, 9, 0, false⟩ ∧
      shown (step { at5 9 9 5 9 0 with trace := [ev 4] }) = some ⟨0, 0, 0, 5, 0, true⟩ := by decide

theorem witness_WindowClosedExactlyFromTheLastPosition :
    shown (exec .tick (at5 9 9 0 9 0)) = some ⟨0, 0, 0, 0, 0, true⟩ ∧
      shown (exec .car (at5 9 9 0 9 0)) = some ⟨9, 9, 0, 9, 1, false⟩ ∧
      shown (exec .tick (at5 0 0 0 0 0)) = some ⟨0, 1, 0, 0, 0, false⟩ := by decide

theorem witness_FaultRecordIsSticky :
    nextOf State.faultOvf (step { at5 0 0 65535 0 0 with trace := [ev 2] }) = some true ∧
      nextOf State.faultOvf (step { holding with pulseCount := 65535, trace := [.txEmpty] }) = some true ∧
      nextOf State.faultOvf (step { at5 0 0 3 0 0 with trace := [ev 8], faultOvf := true }) = some true := by decide

theorem witness_EveryStepKeepsTheMachineInvariant :
    ({ notReady with trace := [.event 4 notReady.inputs] }).Inv ∧
      nextOf (fun s => s.txPending.length) (step { notReady with trace := [.event 4 notReady.inputs] }) = some 4 := by
  unfold State.Inv
  decide

theorem witness_RunWithAReadyChannelNeverStops :
    (at5 9 9 7 0 0).ticksInRange = true ∧ (at5 9 9 7 0 0).txPending = [] ∧ (at5 9 9 7 0 0).nothingHeld ∧
      2 ≤ ({ at5 9 9 7 0 0 with trace := [ev 4, .mainLoop] }).trace.length ∧
      (({ at5 9 9 7 0 0 with trace := [ev 4, .mainLoop] }).trace.take 2).all Stimulus.channelReady = true := by decide

/-- A run of three steps that meets the hypotheses of the parity, position, counting, conservation and packet laws: no reset, no fault, no
window closed, and a `CAR`, an `EDGE` and a `TICK` performed. -/
theorem witness_run_laws :
    noReset ([ev 3, .mainLoop, ev 4].take 3) = true ∧ (at5 0 0 0 0 0).params.ovfMode = .fault ∧
      nextOf (fun t => t.performHeld.faultOvf) (run 3 { at5 0 0 0 0 0 with trace := [ev 3, .mainLoop, ev 4] }) = some false ∧
      windowsIn 3 { at5 0 0 0 0 0 with trace := [ev 3, .mainLoop, ev 4] } = 0 ∧
      timesPerformed .car [ev 3, .mainLoop, ev 4] = 1 ∧ timesPerformed .edge [ev 3, .mainLoop, ev 4] = 1 ∧
      timesPerformed .tick [ev 3, .mainLoop, ev 4] = 1 := by decide

/-- A run that closes a window, for the same laws. -/
theorem witness_run_laws_at_a_window_end :
    windowsIn 2 { at5 9 9 7 0 0 with trace := [ev 4, ev 2] } = 1 ∧
      capturedIn 2 { at5 9 9 7 0 0 with trace := [ev 4, ev 2] } = 7 ∧
      nextOf State.pulseCount (run 2 { at5 9 9 7 0 0 with trace := [ev 4, ev 2] }) = some 1 := by decide

/-- Two ticks before the end of a window, with an edge, a tick and then an edge that coincides with the closing tick. -/
def nearWindowEnd : State := { at5 9 8 3 9 0 with trace := [ev 2, ev 4, ev 6] }

theorem witness_WindowReportsItsEdges :
    (noReset (nearWindowEnd.trace.take 3) = true ∧ nearWindowEnd.params.ovfMode = .fault) ∧
      (nearWindowEnd.trace[2]? = some (.event 6 Inputs.initial) ∧ (6#4).getLsbD 2 = true) ∧
      10 * nearWindowEnd.tickHi.toNat + nearWindowEnd.tickLo.toNat + timesPerformed .tick (nearWindowEnd.trace.take 2) = 99 ∧
      nextOf (fun t => t.performHeld.faultOvf) (run 3 nearWindowEnd) = some false ∧ shown (run 3 nearWindowEnd) = some ⟨0, 0, 0, 5, 0, true⟩ := by
  decide

/-- A report with a packet waiting, and a channel that becomes ready twice. -/
def sending : State := { reporting with trace := [.txEmpty, .txEmpty, ev 1] }

theorem witness_WaitingBytesAreSentInOrder :
    sending.trace.take 2 = List.replicate 2 .txEmpty ∧ nextOf State.txSent (run 2 sending) = some [0xFF, 0xFF] ∧
      nextOf State.pulseCount (run 1 { holding with trace := [.txEmpty] }) = some 1 := by decide

/-- One state for each row of the parser's table. -/
theorem witness_ParserStateTable :
    (parsing .idle [0xDD]).reportRuns = false ∧
    nextOf State.parser (step (parsing .idle [0xDD])) = some .sync1 ∧ nextOf State.parser (step (parsing .idle [0xDC])) = some .idle ∧
      nextOf State.parser (step (parsing .sync1 [0xDD])) = some .highByte ∧
      nextOf State.parser (step (parsing .sync1 [0xDE])) = some .idle ∧
      nextOf (fun s => (s.parser, s.dacH)) (step (parsing .highByte [0xDD])) = some (.lowByte, 0xDD) ∧
      nextOf (fun s => (s.parser, s.dacL)) (step (parsing .lowByte [0xDD])) = some (.idle, 0xDD) := by decide

/-- Each reason to wait. -/
theorem witness_MainLoopWaits :
    (({ reporting with trace := [.mainLoop], rxQueue := [1] }).reportRuns = true) ∧ (parsing .idle []).rxQueue = [] := by decide

theorem witness_ParserResynchronises :
    (parsing .idle []).parser = .idle ∧
      ∀ g ∈ [[0x01#8], [0xDD#8, 0xDC#8]], ∃ b : Byte, b ≠ 0xDD#8 ∧ (g = [b] ∨ g = [0xDD#8, b]) := by
  refine ⟨rfl, fun g hg => ?_⟩
  simp only [List.mem_cons, List.not_mem_nil, or_false] at hg
  rcases hg with rfl | rfl
  · exact ⟨0x01#8, by decide, .inl rfl⟩
  · exact ⟨0xDC#8, by decide, .inr rfl⟩

theorem witness_MarkersAloneWriteNothing : (parsing .idle []).parser = .idle := by decide

theorem witness_InboundBytesQueueInOrder :
    nextOf State.rxQueue (step { parsing .idle [1] with trace := [.rxByte 2] }) = some [1, 2] := by decide

/-- The two ends of the range of reset words, and a reset that answers a next state. -/
theorem witness_RstWritesTheFiveRegisters :
    8 ≤ (8#4).toNat ∧ 8 ≤ (15#4).toNat ∧ nextOf State.outputs (exec .rst (at5 6 0 5 3 1)) = some ⟨0, false, 0⟩ := by decide

/-- Reset under parameters that are not the suggested ones. -/
theorem witness_ResetValuesOfTheBlock :
    nextOf State.outputs (exec .rst (State.resetWith ⟨1, 5, .wrap, 0x1122, .all⟩)) = some ⟨1, false, 5⟩ ∧
      (State.resetWith ⟨1, 5, .wrap, 0x1122, .all⟩).analogSetpoint = 0x1122 ∧
      nextOf (fun s => s.reportExcludes 7) (exec .rst holding) = some false := by decide

theorem witness_RegisterFileReadsBackWrites : ((at5 1 2 3 4 0).writeReg 4 9#4).tickHi = 9#4 ∧ (3 : Nat) ≠ 4 := by decide

theorem witness_OnlyTheFallingTransitionCounts : pinStimuli true false Inputs.initial = [.event 2 Inputs.initial] := by decide

/-- The invariant holds at reset. -/
theorem test_reset_invariant : State.reset.Inv := by
  unfold State.Inv
  decide

end Sys2Proof.Tests
end

section
/-! The trace of a run (rule R12) and the register file by index (rules R8 and R20). -/

namespace Sys2Proof.Machine

/-! ### What a refusal says -/

/-- The members of an operation refuse only for the tick counters (rule R34). -/
theorem performAll_refused {ops : List Trigger} {s : State} {r : Refusal} (h : performAll ops s = .refused r) :
    r = .tickCounterOutOfRange := by
  induction ops generalizing s with
  | nil => cases h
  | cons x xs ih =>
    cases x with
    | car => exact ih (s := s.toggleCarrier) h
    | edge => exact ih (s := s.countPulse) h
    | tick =>
      simp only [performAll, perform, tickStep] at h
      cases inRange : s.ticksInRange <;> simp only [inRange, if_true, if_false, Bool.false_eq_true] at h
      · cases h
        rfl
      · exact ih h

theorem exec_refused {i : Instr} {s : State} {r : Refusal} (h : exec i s = .refused r) : r = .tickCounterOutOfRange := by
  by_cases isRst : i = .rst
  · subst isRst
    cases h
  · rw [exec_eq_simultaneous isRst] at h
    rcases simultaneous_cases (membersOf i) s with ⟨_, -, -, held⟩ | ⟨-, whole⟩
    · cases held.symm.trans h
    · exact performAll_refused (whole.symm.trans h)

/-- An item of the trace refuses only where its operation does: the adjacent layer never refuses. -/
theorem deliver_refused {x : Stimulus} {s : State} {r : Refusal} (h : deliver x s = .refused r) :
    r = .tickCounterOutOfRange := by
  cases x with
  | event ew inputs =>
    simp only [deliver, deliverEvent] at h
    split at h
    · cases h
    · exact exec_refused h
  | txEmpty => cases h
  | rxByte b => cases h
  | mainLoop => cases h

theorem step_traceEnded_iff (s : State) : step s = .refused .traceEnded ↔ s.trace = [] := by
  cases items : s.trace with
  | nil => simp [step, items]
  | cons x rest =>
    have goesOn : step s ≠ .refused .traceEnded := by
      simp only [step, items]
      intro h
      cases deliver_refused h
    simp [goesOn]

/-! ### What a step takes from the trace -/

theorem performHeld_trace_params (s : State) : s.performHeld.trace = s.trace ∧ s.performHeld.params = s.params := by
  obtain ⟨-, -, -, -, -, -, -, -, -, trace, params, -⟩ := sameBut_fields (performHeld_sameBut s)
  exact ⟨trace, params⟩

theorem exec_rst_trace_params {s t : State} (h : exec .rst s = .next t) : t.trace = s.trace ∧ t.params = s.params := by
  cases h
  exact ⟨rfl, rfl⟩

/-- A step that is no reset is judged on the settled states before and after it, whose trace and parameters are the states' own. -/
theorem step_trace_params_of_noReset {s t : State} (h : step s = .next t) (noRst : noReset (s.trace.take 1) = true) :
    (∃ x, s.trace = x :: t.trace) ∧ t.params = s.params := by
  obtain ⟨trace_t, params_t⟩ := performHeld_trace_params t
  obtain ⟨-, params_s⟩ := performHeld_trace_params s
  rcases step_effect h noRst with ⟨ew, inputs, rest, items, -, -, effect⟩ | ⟨x, rest, items, -, left, block, -⟩
  · obtain ⟨-, -, -, -, -, trace, params⟩ := effect.adjacent
    exact ⟨⟨_, by rw [items, ← trace_t, trace]⟩, params_t.symm.trans (params.trans params_s)⟩
  · obtain ⟨-, -, -, -, -, -, -, -, -, params⟩ := block
    exact ⟨⟨x, by rw [items, left]⟩, params_t.symm.trans (params.symm.trans params_s)⟩

theorem step_trace_params_of_reset {s t : State} {ew : EventWord} {inputs : Inputs} {rest : List Stimulus}
    (h : step s = .next t) (items : s.trace = .event ew inputs :: rest) (rst : EventWord.rst ew = true) :
    t.trace = rest ∧ t.params = s.params := by
  simp only [step, items, deliver] at h
  obtain ⟨-, done⟩ := deliverEvent_next h
  rw [decode_of_rst rst] at done
  exact exec_rst_trace_params done

theorem step_trace_params {s t : State} (h : step s = .next t) : (∃ x, s.trace = x :: t.trace) ∧ t.params = s.params := by
  obtain ⟨x, rest, items, -⟩ := step_next h
  cases resets : x.resets with
  | false => exact step_trace_params_of_noReset h (by simp [items, noReset, resets])
  | true =>
    cases x with
    | event ew inputs =>
      obtain ⟨trace, params⟩ := step_trace_params_of_reset h items resets
      exact ⟨⟨_, by rw [items, trace]⟩, params⟩
    | txEmpty => cases resets
    | rxByte b => cases resets
    | mainLoop => cases resets

/-! ### The register file by index -/

theorem readReg_writeReg_same (s : State) (i : Nat) (v : BitVec (regWidth i)) : (s.writeReg i v).readReg i = v := by
  match i, v with
  | 0, _ | 1, _ | 2, _ | 3, _ | 4, _ => rfl
  | _ + 5, v => exact (BitVec.eq_nil v).symm

theorem readReg_writeReg_of_ne (s : State) {i j : Nat} (v : BitVec (regWidth i)) (h : j ≠ i) :
    (s.writeReg i v).readReg j = s.readReg j := by
  match i, j, v with
  | _ + 5, _, _ | _, _ + 5, _ => rfl
  | 0, 0, _ | 1, 1, _ | 2, 2, _ | 3, 3, _ | 4, 4, _ => exact absurd rfl h
  | 0, 1, _ | 0, 2, _ | 0, 3, _ | 0, 4, _ => rfl
  | 1, 0, _ | 1, 2, _ | 1, 3, _ | 1, 4, _ => rfl
  | 2, 0, _ | 2, 1, _ | 2, 3, _ | 2, 4, _ => rfl
  | 3, 0, _ | 3, 1, _ | 3, 2, _ | 3, 4, _ => rfl
  | 4, 0, _ | 4, 1, _ | 4, 2, _ | 4, 3, _ => rfl

end Sys2Proof.Machine

open Sys2Proof.Machine

/-- Settles O10. A refusal is about the end of the trace only where there is nothing to deliver, since the operations refuse for the
tick counters alone. That a run ends by a refusal is the model's choice (log entry 1). -/
theorem stepTakesOneItemOfTheTrace : Obligations.StepTakesOneItemOfTheTrace :=
  ⟨step_traceEnded_iff, fun _ _ => step_trace_params⟩

/-- Settles O55. An index above 4 names no register, and its only value is the one of no bits. -/
theorem registerFileReadsBackWrites : Obligations.RegisterFileReadsBackWrites :=
  fun s i v => ⟨readReg_writeReg_same s i v, fun _ => readReg_writeReg_of_ne s v⟩

end

section
/-! The state section of the specification: what an operation leaves unchanged (rule R20), the ranges and records of the registers (rules
R26, R27, R34 and R35), the invariant every step keeps, and the values of reset (rules R39 to R41). -/

namespace Sys2Proof.Machine

/-! ### The members of a form, one by one -/

theorem performAll_cons_next {x : Trigger} {xs : List Trigger} {s t : State} (h : performAll (x :: xs) s = .next t) :
    ∃ u, perform x s = .next u ∧ performAll xs u = .next t := by
  simp only [performAll] at h
  cases first : perform x s <;> simp only [first, reduceCtorEq] at h
  exact ⟨_, rfl, h⟩

theorem mem_restrictedTo_iff (o : Order) (x : Trigger) (members : List Trigger) : x ∈ o.restrictedTo members ↔ x ∈ members := by
  refine ⟨mem_restrictedTo, fun h => List.mem_filter.mpr ⟨?_, by simpa using h⟩⟩
  cases o <;> cases x <;> decide

theorem tick_mem_throughTick (l : List Trigger) : Trigger.tick ∈ throughTick l ↔ Trigger.tick ∈ l := by
  induction l with
  | nil => rfl
  | cons x xs ih => cases x <;> simp [throughTick, ih]

/-- The members of an operation after its `TICK` hold no second one. -/
theorem tick_notMem_afterTick (o : Order) (i : Instr) : Trigger.tick ∉ afterTick (o.restrictedTo (membersOf i)) := by
  cases o <;> cases i <;> decide

/-! ### The refusal of a tick counter above 9 (rule R34) -/

theorem countPulse_ticksInRange (s : State) : s.countPulse.ticksInRange = s.ticksInRange := by
  obtain ⟨-, lo, hi, -⟩ := sameBut_fields (countPulse_sameBut s)
  simp only [State.ticksInRange, lo, hi]

theorem tick_ticksInRange {s : State} (inRange : s.ticksInRange = true) : s.tick.ticksInRange = true :=
  (ticksInRange_iff _).mpr (tick_effect (tickStep_of_inRange s ((ticksInRange_iff s).mp inRange))).after

theorem performAll_refuses_iff (ops : List Trigger) (s : State) :
    performAll ops s = .refused .tickCounterOutOfRange ↔ Trigger.tick ∈ ops ∧ s.ticksInRange = false := by
  induction ops generalizing s with
  | nil => simp [performAll]
  | cons x xs ih =>
    cases x with
    | car =>
      have range : s.toggleCarrier.ticksInRange = s.ticksInRange := rfl
      simpa [performAll, perform, range] using ih s.toggleCarrier
    | edge => simpa [performAll, perform, countPulse_ticksInRange] using ih s.countPulse
    | tick =>
      cases inRange : s.ticksInRange
      · simp [performAll, perform, tickStep, inRange]
      · simp [performAll, perform, tickStep, inRange, ih, tick_ticksInRange inRange]

theorem exec_refuses_iff (i : Instr) (s : State) :
    exec i s = .refused .tickCounterOutOfRange ↔ performedBy .tick i = true ∧ s.ticksInRange = false := by
  by_cases isRst : i = .rst
  · subst isRst
    simp [exec, execRst, performedBy]
  · have members := mem_restrictedTo_iff s.inputs.order .tick (membersOf i)
    rw [mem_membersOf] at members
    have range : (s.outWindowClosed false).ticksInRange = s.ticksInRange := rfl
    rw [exec_eq_simultaneous isRst, ← members, ← range]
    rcases simultaneous_cases (membersOf i) s with ⟨u, first, -, held⟩ | ⟨-, whole⟩
    · have completes := performAll_refuses_iff (throughTick (s.inputs.order.restrictedTo (membersOf i))) (s.outWindowClosed false)
      rw [first, tick_mem_throughTick] at completes
      rw [held, ← completes]
      simp
    · rw [whole, performAll_refuses_iff]

/-! ### An operation from any state, also one in which a member already waits -/

/-- An operation other than `RST` performs its members in order and holds the last of them, if any, behind a `REPORT`. -/
theorem exec_splits {i : Instr} (notRst : i ≠ .rst) {s t : State} (h : exec i s = .next t) :
    ∃ ops rest u, ops ++ rest = s.inputs.order.restrictedTo (membersOf i) ∧ Trigger.tick ∉ rest ∧
      performAll ops (s.outWindowClosed false) = .next u ∧ t = u.hold rest := by
  rw [exec_eq_simultaneous notRst] at h
  rcases simultaneous_cases (membersOf i) s with ⟨u, first, -, held⟩ | ⟨-, whole⟩
  · exact ⟨_, _, u, throughTick_append_afterTick _, tick_notMem_afterTick _ i, first, by simpa using h.symm.trans held⟩
  · exact ⟨_, [], t, List.append_nil _, List.not_mem_nil, whole.symm.trans h, (hold_nil t).symm⟩

/-- The state `t` after the operation `i` on `s` is `done`, but for members of `i` that wait. -/
structure LeavesOnlyMembersWaiting (i : Instr) (s t done : State) : Prop where
  block : t.speed = done.speed ∧ t.tickLo = done.tickLo ∧ t.tickHi = done.tickHi ∧ t.windowClosed = done.windowClosed
  channel : t.txSent = done.txSent ∧ t.txPending = done.txPending ∧ t.params = done.params
  withoutCar : performedBy .car i = false → t.carrierOut = done.carrierOut ∧ t.heldCar = s.heldCar
  withoutEdge : performedBy .edge i = false →
    t.pulseCount = done.pulseCount ∧ t.faultOvf = done.faultOvf ∧ t.draws = done.draws ∧ t.heldEdge = s.heldEdge

/-- Everything an operation other than `RST` can do, whatever waits already: the state in which all its members are performed, and which
fields of it are there at once. -/
theorem exec_effect {i : Instr} (notRst : i ≠ .rst) {s t : State} (h : exec i s = .next t) :
    ∃ done, OperationEffect i s done ∧ LeavesOnlyMembersWaiting i s t done := by
  obtain ⟨ops, rest, u, split, noTick, run, rfl⟩ := exec_splits notRst h
  obtain ⟨done, finish, same, car, -, -, quiet⟩ := performAll_without_tick rest noTick u
  have whole := performAll_append ops rest (s.outWindowClosed false)
  rw [run, split] at whole
  have absent : ∀ x, performedBy x i = false → x ∉ rest := by
    intro x other waits
    have member := mem_restrictedTo (split ▸ List.mem_append_right ops waits)
    simp [(mem_membersOf x i).mp member] at other
  obtain ⟨heldCar, heldEdge⟩ := performAll_held run
  obtain ⟨speed, lo, hi, window, -, -, -, -, -, -, params, sent, pending, -⟩ := sameBut_fields same
  refine ⟨done, members_effect (whole.trans finish), ⟨speed.symm, lo.symm, hi.symm, window.symm⟩,
    ⟨sent.symm, pending.symm, params.symm⟩, fun noCar => ?_, fun noEdge => ?_⟩
  · have none := absent .car noCar
    rw [List.count_eq_zero_of_not_mem none] at car
    exact ⟨by simpa [State.hold] using car.symm, by simpa [State.hold, State.outWindowClosed, none] using heldCar⟩
  · have none := absent .edge noEdge
    obtain ⟨pulse, fault, draws⟩ := quiet (List.count_eq_zero_of_not_mem none)
    exact ⟨pulse.symm, fault.symm, draws.symm, by simpa [State.hold, State.outWindowClosed, none] using heldEdge⟩

/-! ### The output `WINDOW_CLOSED` (rule R27) -/

theorem exec_rst_windowClosed {s t : State} (h : exec .rst s = .next t) : t.windowClosed = false := by
  cases h
  rfl

theorem exec_windowClosed_iff {i : Instr} {s t : State} (h : exec i s = .next t) :
    t.windowClosed = true ↔ performedBy .tick i = true ∧ s.tickLo = 9#4 ∧ s.tickHi = 9#4 := by
  by_cases isRst : i = .rst
  · subst isRst
    simp [exec_rst_windowClosed h, performedBy]
  · obtain ⟨done, effect, left⟩ := exec_effect isRst h
    obtain ⟨-, -, -, window⟩ := left.block
    rw [window]
    exact effect.window

/-- The tick that closes a window leaves both counters at 0 (rule R120). -/
theorem exec_tickLo_of_windowClosed {i : Instr} {s t : State} (h : exec i s = .next t) (closed : t.windowClosed = true) :
    t.tickLo = 0#4 := by
  by_cases isRst : i = .rst
  · subst isRst
    simp [exec_rst_windowClosed h] at closed
  · obtain ⟨done, effect, left⟩ := exec_effect isRst h
    obtain ⟨-, lo, -, window⟩ := left.block
    exact lo.trans (effect.closes (window ▸ closed)).1

theorem exec_windowClosed_once {i j : Instr} {s t u : State} (first : exec i s = .next t) (closed : t.windowClosed = true)
    (second : exec j t = .next u) : u.windowClosed = false := by
  rw [Bool.eq_false_iff]
  intro again
  obtain ⟨-, lo, -⟩ := (exec_windowClosed_iff second).mp again
  rw [exec_tickLo_of_windowClosed first closed] at lo
  cases lo

/-! ### The frame of an operation (rule R20) -/

theorem exec_rst_faultOvf_draws {s t : State} (h : exec .rst s = .next t) : t.faultOvf = s.faultOvf ∧ t.draws = s.draws := by
  cases h
  exact ⟨rfl, rfl⟩

theorem exec_carrier_of_withoutCar {i : Instr} {s t : State} (h : exec i s = .next t) (notRst : i ≠ .rst)
    (noCar : performedBy .car i = false) : t.carrierOut = s.carrierOut ∧ t.heldCar = s.heldCar := by
  obtain ⟨done, effect, left⟩ := exec_effect notRst h
  obtain ⟨carrier, held⟩ := left.withoutCar noCar
  exact ⟨by simpa [noCar] using carrier.trans effect.carrier, held⟩

theorem exec_pulse_of_withoutEdge {i : Instr} {s t : State} (h : exec i s = .next t) (notRst : i ≠ .rst)
    (noEdge : performedBy .edge i = false) :
    (t.windowClosed = false → t.pulseCount = s.pulseCount) ∧ t.heldEdge = s.heldEdge := by
  obtain ⟨done, effect, left⟩ := exec_effect notRst h
  obtain ⟨pulse, -, -, held⟩ := left.withoutEdge noEdge
  obtain ⟨-, -, -, window⟩ := left.block
  refine ⟨fun off => ?_, held⟩
  obtain ⟨-, -, -, same, -⟩ := effect.goesOn (window ▸ off)
  exact pulse.trans (same noEdge)

theorem exec_fault_of_withoutEdge {i : Instr} {s t : State} (h : exec i s = .next t) (noEdge : performedBy .edge i = false) :
    t.faultOvf = s.faultOvf ∧ t.draws = s.draws := by
  by_cases isRst : i = .rst
  · subst isRst
    exact exec_rst_faultOvf_draws h
  · obtain ⟨done, effect, left⟩ := exec_effect isRst h
    obtain ⟨-, fault, draws, -⟩ := left.withoutEdge noEdge
    obtain ⟨fault', draws'⟩ := effect.withoutEdge noEdge
    exact ⟨fault.trans fault', draws.trans draws'⟩

theorem exec_speed_of_noClose {i : Instr} {s t : State} (h : exec i s = .next t) (notRst : i ≠ .rst)
    (off : t.windowClosed = false) : t.speed = s.speed := by
  obtain ⟨done, effect, left⟩ := exec_effect notRst h
  obtain ⟨speed, -, -, window⟩ := left.block
  exact speed.trans (effect.goesOn (window ▸ off)).1

theorem exec_counters_of_withoutTick {i : Instr} {s t : State} (h : exec i s = .next t) (notRst : i ≠ .rst)
    (noTick : performedBy .tick i = false) : t.tickLo = s.tickLo ∧ t.tickHi = s.tickHi := by
  obtain ⟨done, effect, left⟩ := exec_effect notRst h
  obtain ⟨-, lo, hi, -⟩ := left.block
  obtain ⟨lo', hi'⟩ := effect.withoutTick noTick
  exact ⟨lo.trans lo', hi.trans hi'⟩

/-! ### The tick counters (rule R26) -/

theorem exec_rst_counters {s t : State} (h : exec .rst s = .next t) : t.tickLo = 0#4 ∧ t.tickHi = 0#4 := by
  cases h
  exact ⟨rfl, rfl⟩

theorem exec_ticksInRange {i : Instr} {s t : State} (h : exec i s = .next t) (inRange : s.ticksInRange = true) :
    t.ticksInRange = true := by
  rw [ticksInRange_iff] at *
  by_cases isRst : i = .rst
  · subst isRst
    obtain ⟨lo, hi⟩ := exec_rst_counters h
    simp [lo, hi]
  · cases ticks : performedBy .tick i
    · obtain ⟨lo, hi⟩ := exec_counters_of_withoutTick h isRst ticks
      rwa [lo, hi]
    · obtain ⟨done, effect, left⟩ := exec_effect isRst h
      obtain ⟨-, lo, hi, -⟩ := left.block
      rw [lo, hi]
      exact (effect.range ticks).2

/-- Within a window the position goes up by one at each `TICK`, and the decades never fall back. -/
theorem exec_position_of_noClose {i : Instr} {s t : State} (h : exec i s = .next t) (notRst : i ≠ .rst)
    (off : t.windowClosed = false) :
    s.tickHi.toNat ≤ t.tickHi.toNat ∧
      10 * t.tickHi.toNat + t.tickLo.toNat =
        10 * s.tickHi.toNat + s.tickLo.toNat + (if performedBy .tick i then 1 else 0) := by
  cases ticks : performedBy .tick i
  · obtain ⟨lo, hi⟩ := exec_counters_of_withoutTick h notRst ticks
    simp [lo, hi]
  · obtain ⟨done, effect, left⟩ := exec_effect notRst h
    obtain ⟨-, lo, hi, window⟩ := left.block
    obtain ⟨-, -, -, -, counts, -⟩ := effect.goesOn (window ▸ off)
    rw [lo, hi]
    exact ⟨(counts ticks).2, (counts ticks).1⟩

/-! ### The fault record (rule R35) -/

/-- One member leaves the fault record, or is an `EDGE` that overflows and sets it (rule R113). -/
theorem perform_faultOvf {x : Trigger} {s u : State} (h : perform x s = .next u) :
    u.faultOvf = s.faultOvf ∨
      u.faultOvf = true ∧ x = .edge ∧ s.params.ovfMode = .fault ∧ s.pulseCount = 65535#16 := by
  cases x with
  | car =>
    cases h
    exact .inl rfl
  | edge =>
    cases h
    rcases countPulse_cases s with ⟨-, eq, -⟩ | ⟨full, mode, eq⟩ | ⟨-, -, eq⟩ | ⟨-, -, eq⟩ <;> rw [eq]
    · exact .inl rfl
    · exact .inr ⟨rfl, rfl, mode, full⟩
    · exact .inl rfl
    · exact .inl rfl
  | tick => exact .inl (tick_effect h).fault

/-- A member other than `EDGE` leaves the count, or sets it to 0 at the end of a window. -/
theorem perform_pulse_of_ne_edge {x : Trigger} {s u : State} (h : perform x s = .next u) (notEdge : x ≠ .edge) :
    u.params = s.params ∧ (u.pulseCount = s.pulseCount ∨ u.pulseCount = 0#16) := by
  cases x with
  | car =>
    cases h
    exact ⟨rfl, .inl rfl⟩
  | edge => exact absurd rfl notEdge
  | tick =>
    have effect := tick_effect h
    obtain ⟨-, -, -, -, -, -, params⟩ := effect.adjacent
    refine ⟨params, ?_⟩
    cases window : u.windowClosed
    · exact .inl (effect.goesOn window).2.1
    · obtain ⟨-, -, -, pulse, -⟩ := effect.closes window
      exact .inr pulse

theorem performAll_faultOvf_sticky {ops : List Trigger} {s t : State} (h : performAll ops s = .next t)
    (recorded : s.faultOvf = true) : t.faultOvf = true := by
  induction ops generalizing s with
  | nil =>
    cases h
    exact recorded
  | cons x xs ih =>
    obtain ⟨u, first, others⟩ := performAll_cons_next h
    apply ih others
    rcases perform_faultOvf first with same | ⟨set, -⟩
    · rw [same, recorded]
    · exact set

theorem performAll_faultOvf_of_withoutEdge {ops : List Trigger} {s t : State} (h : performAll ops s = .next t)
    (noEdge : Trigger.edge ∉ ops) : t.faultOvf = s.faultOvf := by
  induction ops generalizing s with
  | nil =>
    cases h
    rfl
  | cons x xs ih =>
    obtain ⟨u, first, others⟩ := performAll_cons_next h
    rw [ih others (fun later => noEdge (List.mem_cons_of_mem x later))]
    rcases perform_faultOvf first with same | ⟨-, isEdge, -⟩
    · exact same
    · exact absurd (isEdge ▸ List.mem_cons_self) noEdge

/-- Members with at most one `EDGE` set the fault record only from a count at the maximum: a window that closes before the `EDGE` takes the
count to 0, and nothing else among the members moves it. -/
theorem performAll_sets_faultOvf {ops : List Trigger} {s t : State} (h : performAll ops s = .next t)
    (once : ops.count .edge ≤ 1) (clear : s.faultOvf = false) (recorded : t.faultOvf = true) :
    s.params.ovfMode = .fault ∧ Trigger.edge ∈ ops ∧ s.pulseCount = 65535#16 := by
  induction ops generalizing s with
  | nil =>
    cases h
    simp [clear] at recorded
  | cons x xs ih =>
    obtain ⟨u, first, others⟩ := performAll_cons_next h
    rcases perform_faultOvf first with same | ⟨-, isEdge, mode, full⟩
    · by_cases isEdge : x = .edge
      · subst isEdge
        rw [List.count_cons_self] at once
        have noMore : Trigger.edge ∉ xs := List.count_eq_zero.mp (by omega)
        simp [performAll_faultOvf_of_withoutEdge others noMore, same, clear] at recorded
      · obtain ⟨params, pulse⟩ := perform_pulse_of_ne_edge first isEdge
        rw [List.count_cons_of_ne isEdge] at once
        obtain ⟨mode, later, full⟩ := ih others once (same.trans clear)
        refine ⟨params ▸ mode, List.mem_cons_of_mem x later, ?_⟩
        rcases pulse with kept | zero
        · exact kept ▸ full
        · simp [zero] at full
    · exact ⟨mode, isEdge ▸ List.mem_cons_self, full⟩

theorem exec_faultOvf_sticky {i : Instr} {s t : State} (h : exec i s = .next t) (recorded : s.faultOvf = true) :
    t.faultOvf = true := by
  by_cases isRst : i = .rst
  · subst isRst
    exact (exec_rst_faultOvf_draws h).1.trans recorded
  · obtain ⟨ops, rest, u, -, -, run, rfl⟩ := exec_splits isRst h
    exact performAll_faultOvf_sticky (t := u) run recorded

theorem exec_sets_faultOvf {i : Instr} {s t : State} (h : exec i s = .next t) (clear : s.faultOvf = false)
    (recorded : t.faultOvf = true) :
    s.params.ovfMode = .fault ∧ performedBy .edge i = true ∧ s.pulseCount = 65535#16 := by
  by_cases isRst : i = .rst
  · subst isRst
    simp [exec_rst_faultOvf_draws h, clear] at recorded
  · obtain ⟨ops, rest, u, split, -, run, rfl⟩ := exec_splits isRst h
    have countEdge := (count_members s.inputs.order i).2
    rw [← split, List.count_append] at countEdge
    have once : ops.count .edge ≤ 1 := by
      split at countEdge <;> omega
    obtain ⟨mode, member, full⟩ := performAll_sets_faultOvf run once clear recorded
    exact ⟨mode, (mem_membersOf .edge i).mp (mem_restrictedTo (split ▸ List.mem_append_left rest member)), full⟩

theorem exec_edge_sets_faultOvf {s t : State} (mode : s.params.ovfMode = .fault) (full : s.pulseCount = 65535#16)
    (h : exec .edge s = .next t) : t.faultOvf = true := by
  cases h
  rw [countPulse_outWindowClosed]
  rcases countPulse_cases s with ⟨below, -, -⟩ | ⟨-, -, eq⟩ | ⟨-, wrong, -⟩ | ⟨-, wrong, -⟩
  · simp [full] at below
  · rw [eq]
    rfl
  · simp [mode] at wrong
  · simp [mode] at wrong

/-! ### A step of the adjacent layer -/

/-- What a step of the adjacent layer keeps of the block and of the serial channel. -/
structure AdjacentEffect (s t : State) : Prop where
  counters : t.tickLo = s.tickLo ∧ t.tickHi = s.tickHi
  params : t.params = s.params
  sticky : s.faultOvf = true → t.faultOvf = true
  stream : t.txSent ++ t.txPending = s.txSent ++ s.txPending
  waiting : t.txPending.length ≤ s.txPending.length

theorem AdjacentEffect.refl (s : State) : AdjacentEffect s s :=
  ⟨⟨rfl, rfl⟩, rfl, id, rfl, le_rfl⟩

theorem AdjacentEffect.trans {s t u : State} (first : AdjacentEffect s t) (second : AdjacentEffect t u) : AdjacentEffect s u :=
  ⟨⟨second.counters.1.trans first.counters.1, second.counters.2.trans first.counters.2⟩, second.params.trans first.params,
    second.sticky ∘ first.sticky, second.stream.trans first.stream, second.waiting.trans first.waiting⟩

theorem adjacentEffect_serialTx (s : State) : AdjacentEffect s s.serialTx := by
  rcases serialTx_cases s with ⟨-, eq⟩ | ⟨b, bs, pending, eq⟩ <;> rw [eq]
  · exact .refl s
  · exact ⟨⟨rfl, rfl⟩, rfl, id, by simp [pending], by simp [pending]⟩

theorem performHeld_faultOvf_sticky {s : State} (recorded : s.faultOvf = true) : s.performHeld.faultOvf = true := by
  have counted : ∀ v : State, v.faultOvf = true → v.countPulse.faultOvf = true :=
    fun v => performAll_faultOvf_sticky (ops := [.edge]) rfl
  simp only [State.performHeld]
  cases s.heldCar <;> cases s.heldEdge <;> simp [counted, recorded, State.toggleCarrier]

theorem adjacentEffect_performHeld (s : State) : AdjacentEffect s s.performHeld := by
  obtain ⟨-, lo, hi, -, -, -, -, -, -, -, params, sent, pending, -⟩ := sameBut_fields (performHeld_sameBut s)
  exact ⟨⟨lo, hi⟩, params, performHeld_faultOvf_sticky, by rw [sent, pending]; rfl, by rw [pending]; rfl⟩

theorem adjacentEffect_rxByte (s : State) (b : Byte) : AdjacentEffect s (s.rxByte b) := by
  rw [rxByte_sameBut]
  exact ⟨⟨rfl, rfl⟩, rfl, id, rfl, le_rfl⟩

/-- The main loop leaves what waits for a `REPORT`, and a byte only enters the parser. -/
theorem mainLoop_held (s : State) :
    s.mainLoop.heldCar = s.heldCar ∧ s.mainLoop.heldEdge = s.heldEdge ∧ s.mainLoop.txPending = s.txPending := by
  rcases mainLoop_cases s with eq | ⟨b, bs, -, -, eq⟩ <;> rw [eq]
  · exact ⟨rfl, rfl, rfl⟩
  · rw [rxByte_sameBut]
    exact ⟨rfl, rfl, rfl⟩

theorem deliver_adjacentEffect {x : Stimulus} {s t : State} (adjacent : x.ofBlock = false) (h : deliver x s = .next t) :
    AdjacentEffect s t := by
  cases x with
  | event ew inputs => cases adjacent
  | txEmpty =>
    cases h
    simp only [State.serialTxReturns]
    split
    · exact (adjacentEffect_serialTx s).trans (adjacentEffect_performHeld _)
    · exact adjacentEffect_serialTx s
  | rxByte b =>
    cases h
    exact ⟨⟨rfl, rfl⟩, rfl, id, rfl, le_rfl⟩
  | mainLoop =>
    cases h
    rcases mainLoop_cases s with eq | ⟨b, bs, -, -, eq⟩ <;> rw [eq]
    · exact .refl s
    · have taken : AdjacentEffect s (s.setRxQueue bs) := ⟨⟨rfl, rfl⟩, rfl, id, rfl, le_rfl⟩
      exact taken.trans (adjacentEffect_rxByte _ b)

/-- The return of a `SerialTx` leaves a byte waiting, and then what waits for it, or it was the last and nothing waits any more. -/
theorem serialTxReturns_held (s : State) :
    s.serialTxReturns.nothingHeld ∨
      s.serialTxReturns.heldCar = s.heldCar ∧ s.serialTxReturns.heldEdge = s.heldEdge ∧ s.serialTxReturns.txPending ≠ [] := by
  simp only [State.serialTxReturns]
  split
  · exact .inl (performHeld_nothingHeld _)
  next notEmpty =>
    have more : s.serialTx.txPending ≠ [] := by simpa using notEmpty
    rcases serialTx_cases s with ⟨-, eq⟩ | ⟨b, bs, -, eq⟩ <;> rw [eq] at more ⊢
    · exact .inr ⟨rfl, rfl, more⟩
    · exact .inr ⟨rfl, rfl, more⟩

/-- A member still waits after a step of the adjacent layer only if it waited before it, and behind a byte. -/
theorem deliver_adjacent_held {x : Stimulus} {s t : State} (adjacent : x.ofBlock = false) (h : deliver x s = .next t) :
    t.nothingHeld ∨ t.heldCar = s.heldCar ∧ t.heldEdge = s.heldEdge ∧ (s.txPending ≠ [] → t.txPending ≠ []) := by
  cases x with
  | event ew inputs => cases adjacent
  | txEmpty =>
    cases h
    exact (serialTxReturns_held s).imp_right fun ⟨car, edge, more⟩ => ⟨car, edge, fun _ => more⟩
  | rxByte b =>
    cases h
    exact .inr ⟨rfl, rfl, id⟩
  | mainLoop =>
    cases h
    obtain ⟨car, edge, pending⟩ := mainLoop_held s
    exact .inr ⟨car, edge, fun more => pending ▸ more⟩

/-! ### What every item of the trace keeps -/

theorem ofBlock_cases (x : Stimulus) : x.ofBlock = false ∨ ∃ ew inputs, x = .event ew inputs := by
  cases x <;> simp [Stimulus.ofBlock]

theorem deliver_ticksInRange {x : Stimulus} {s t : State} (h : deliver x s = .next t) (inRange : s.ticksInRange = true) :
    t.ticksInRange = true := by
  rcases ofBlock_cases x with adjacent | ⟨ew, inputs, rfl⟩
  · obtain ⟨lo, hi⟩ := (deliver_adjacentEffect adjacent h).counters
    rwa [State.ticksInRange, lo, hi]
  · exact exec_ticksInRange (deliverEvent_next h).2 inRange

theorem deliver_faultOvf_sticky {x : Stimulus} {s t : State} (h : deliver x s = .next t) (recorded : s.faultOvf = true) :
    t.faultOvf = true := by
  rcases ofBlock_cases x with adjacent | ⟨ew, inputs, rfl⟩
  · exact (deliver_adjacentEffect adjacent h).sticky recorded
  · exact exec_faultOvf_sticky (deliverEvent_next h).2 recorded

theorem step_ticksInRange {s t : State} (h : step s = .next t) (inRange : s.ticksInRange = true) : t.ticksInRange = true := by
  obtain ⟨x, rest, -, effect⟩ := step_next h
  exact deliver_ticksInRange effect inRange

theorem step_faultOvf_sticky {s t : State} (h : step s = .next t) (recorded : s.faultOvf = true) : t.faultOvf = true := by
  obtain ⟨x, rest, -, effect⟩ := step_next h
  exact deliver_faultOvf_sticky effect recorded

/-! ### Packets -/

theorem isPacketStream_append {xs ys : List Byte} (first : isPacketStream xs = true) (second : isPacketStream ys = true) :
    isPacketStream (xs ++ ys) = true := by
  induction xs using isPacketStream.induct with
  | case1 => exact second
  | case2 b0 b1 b2 b3 b4 b5 rest ih =>
    simp only [isPacketStream, List.cons_append, Bool.and_eq_true] at first ⊢
    exact ⟨first.1, ih first.2⟩
  | case3 xs notEmpty notPacket => simp [isPacketStream] at first

/-- Bits 7 to 1 of byte 4 are reserved (rule R80). -/
theorem byte4_reserved (x : Sensors) : x.byte4.extractLsb' 1 7 = 0#7 := by
  rw [Sensors.byte4]
  cases x.sensor8 <;> decide

theorem packet_isPacketStream (speed : Pulse) (x : Sensors) : isPacketStream (packet speed x) = true := by
  simp [packet, isPacketStream, byte4_reserved]

/-! ### The invariant -/

/-- A `REPORT` holds members only under `all`, and behind a waiting byte (log entry 18). -/
theorem reportHolds_blocks {s : State} (h : s.reportHolds = true) : s.params.reportBlocks = .all ∧ s.txPending ≠ [] := by
  cases mode : s.params.reportBlocks <;> simp_all [State.reportHolds]

/-- While a `REPORT` runs, no event word with a `TICK` is delivered (decision D25). -/
theorem noTick_of_reportRuns {s : State} {ew : EventWord} (noRst : EventWord.rst ew = false)
    (allowed : s.reportExcludes ew = false) (runs : s.reportRuns = true) : performedBy .tick (decode ew) = false := by
  rw [performedBy_decode noRst .tick Inputs.initial]
  cases mode : s.params.reportBlocks <;> simp_all [State.reportExcludes, Stimulus.performs]

theorem reportRuns_iff (s : State) : s.reportRuns = false ↔ s.txPending = [] ∧ s.nothingHeld := by
  simp [State.reportRuns, and_assoc]

theorem exec_rst_inv {s t : State} (h : exec .rst s = .next t) : t.Inv := by
  cases h
  exact ⟨rfl, Nat.zero_le _, rfl, .inl ⟨rfl, rfl⟩⟩

/-- An operation without a closing `TICK` leaves what is sent and what waits, and one that closes a window adds one packet. -/
theorem exec_stream {i : Instr} (notRst : i ≠ .rst) {s t : State} (h : exec i s = .next t) :
    t.params = s.params ∧
      (t.windowClosed = false ∧ t.txSent = s.txSent ∧ t.txPending = s.txPending ∨
        performedBy .tick i = true ∧
          t.txSent = s.txSent ++ (s.txPending ++ packet t.speed s.inputs.sensors).take s.inputs.txReady ∧
          t.txPending = (s.txPending ++ packet t.speed s.inputs.sensors).drop s.inputs.txReady) := by
  obtain ⟨done, effect, left⟩ := exec_effect notRst h
  obtain ⟨speed, -, -, window⟩ := left.block
  obtain ⟨sent, pending, params⟩ := left.channel
  obtain ⟨-, -, -, -, -, -, params'⟩ := effect.adjacent
  refine ⟨params.trans params', ?_⟩
  cases closed : t.windowClosed
  · obtain ⟨-, sent', pending', -⟩ := effect.goesOn (window ▸ closed)
    exact .inl ⟨rfl, sent.trans sent', pending.trans pending'⟩
  · obtain ⟨-, -, sent', pending', -⟩ := effect.closes (window ▸ closed)
    rw [speed]
    exact .inr ⟨(effect.window.mp (window ▸ closed)).1, sent.trans sent', pending.trans pending'⟩

/-- An event word that closes a window finds nothing waiting, so that what then waits is of its own packet. -/
theorem deliverEvent_stream {ew : EventWord} {inputs : Inputs} {s t : State} (inv : s.Inv) (noRst : EventWord.rst ew = false)
    (h : deliverEvent ew inputs s = .next t) :
    t.txPending.length ≤ Config.packetBytes ∧ isPacketStream (t.txSent ++ t.txPending) = true := by
  obtain ⟨-, short, packets, -⟩ := inv
  obtain ⟨allowed, done⟩ := deliverEvent_next h
  obtain ⟨-, ⟨-, sent, pending⟩ | ⟨ticks, sent, pending⟩⟩ := exec_stream (decode_ne_rst noRst) done <;> rw [sent, pending]
  · exact ⟨short, packets⟩
  · have idle : s.reportRuns = false := by
      rw [Bool.eq_false_iff]
      intro runs
      simp [noTick_of_reportRuns noRst allowed runs] at ticks
    have nothing : s.txPending = [] := ((reportRuns_iff s).mp idle).1
    simp only [State.setInputs_txSent, State.setInputs_txPending, nothing, List.nil_append, List.append_nil,
      List.append_assoc, List.take_append_drop, List.length_drop] at packets ⊢
    exact ⟨Nat.sub_le _ _, isPacketStream_append packets (packet_isPacketStream _ _)⟩

/-- An event word lets a member wait only behind the `REPORT` it began itself; where one waits already, it changes nothing that waits. -/
theorem deliverEvent_held {ew : EventWord} {inputs : Inputs} {s t : State} (inv : s.Inv) (noRst : EventWord.rst ew = false)
    (h : deliverEvent ew inputs s = .next t) :
    t.nothingHeld ∨ t.params.reportBlocks = .all ∧ t.txPending ≠ [] := by
  obtain ⟨-, -, -, held⟩ := inv
  obtain ⟨allowed, done⟩ := deliverEvent_next h
  have notRst := decode_ne_rst noRst
  by_cases free : s.nothingHeld
  · obtain ⟨car, edge⟩ := operation_holds notRst (s := s.setInputs inputs) free done
    cases holds : t.reportHolds
    · exact .inl (by simpa [holds, State.nothingHeld] using And.intro car edge)
    · exact .inr (reportHolds_blocks holds)
  · obtain ⟨blocks, waits⟩ := held.resolve_left free
    have runs : s.reportRuns = true := by
      rw [← Bool.not_eq_false, reportRuns_iff]
      exact fun idle => waits idle.1
    obtain ⟨params, ⟨-, -, pending⟩ | ⟨ticks, -⟩⟩ := exec_stream notRst done
    · rw [params, pending]
      exact .inr ⟨blocks, waits⟩
    · simp [noTick_of_reportRuns noRst allowed runs] at ticks

theorem deliver_adjacent_inv {x : Stimulus} {s t : State} (adjacent : x.ofBlock = false) (inv : s.Inv)
    (h : deliver x s = .next t) : t.Inv := by
  obtain ⟨inRange, short, packets, held⟩ := inv
  have effect := deliver_adjacentEffect adjacent h
  refine ⟨deliver_ticksInRange h inRange, effect.waiting.trans short, effect.stream ▸ packets, ?_⟩
  rcases deliver_adjacent_held adjacent h with free | ⟨car, edge, more⟩
  · exact .inl free
  · rw [State.nothingHeld, car, edge, effect.params]
    exact held.imp_right fun ⟨blocks, waits⟩ => ⟨blocks, more waits⟩

theorem deliver_inv {x : Stimulus} {s t : State} (inv : s.Inv) (h : deliver x s = .next t) : t.Inv := by
  rcases ofBlock_cases x with adjacent | ⟨ew, inputs, rfl⟩
  · exact deliver_adjacent_inv adjacent inv h
  · cases rst : EventWord.rst ew
    · have ⟨inRange, _⟩ := inv
      obtain ⟨short, packets⟩ := deliverEvent_stream inv rst h
      exact ⟨deliver_ticksInRange h inRange, short, packets, deliverEvent_held inv rst h⟩
    · obtain ⟨-, done⟩ := deliverEvent_next h
      rw [decode_of_rst rst] at done
      exact exec_rst_inv done

theorem step_inv {s t : State} (inv : s.Inv) (h : step s = .next t) : t.Inv := by
  obtain ⟨x, rest, -, effect⟩ := step_next h
  exact deliver_inv (s := s.setTrace rest) inv effect

/-! ### The values of reset (rules R40 and R41) -/

/-- A state in which no `REPORT` runs accepts every event word. -/
theorem reportExcludes_of_idle {s : State} (idle : s.reportRuns = false) (ew : EventWord) : s.reportExcludes ew = false := by
  simp [State.reportExcludes, idle]

theorem exec_rst_readReg {s t : State} (h : exec .rst s = .next t) (i : Nat) :
    t.readReg i = (State.resetWith s.params).readReg i := by
  cases h
  match i with
  | 0 | 1 | 2 | 3 | 4 | _ + 5 => rfl

theorem exec_rst_idle {s t : State} (h : exec .rst s = .next t) : t.reportRuns = false := by
  cases h
  rfl

theorem resetWith_analogSetpoint (p : Params) : (State.resetWith p).analogSetpoint = p.dacInit := by
  show p.dacInit.extractLsb' 8 8 ++ p.dacInit.extractLsb' 0 8 = p.dacInit
  rw [BitVec.extractLsb'_append_extractLsb'_eq_extractLsb' (by rfl)]
  exact BitVec.extractLsb'_eq_self

end Sys2Proof.Machine

open Sys2Proof Sys2Proof.Machine

/-- Settles O38. A `TICK` is delivered only where no `REPORT` runs, so the packet of a closing window is the only one that waits; the
members held with it, the model's choice (log entry 18), wait behind its bytes. -/
theorem everyStepKeepsTheMachineInvariant : Obligations.EveryStepKeepsTheMachineInvariant :=
  fun _ _ => step_inv

/-- Settles O17. A `TICK` among the members always comes before anything can be held, so it is always reached (log entry 8). -/
theorem tickRefusesUnreachableCounters : Obligations.TickRefusesUnreachableCounters := by
  intro i s
  have holdsTick : performedBy .tick i = true ↔ i ∈ [Instr.tick, .simCT, .simET, .simCET] := by
    cases i <;> decide
  rw [exec_refuses_iff, ← ticksInRange_iff, holdsTick, Bool.not_eq_true]

/-- Settles O29, register by register; that members can wait for a `REPORT` at all is the model's choice (log entry 18). -/
theorem onlyTheNamedOperationsWriteARegister : Obligations.OnlyTheNamedOperationsWriteARegister :=
  fun _ _ _ h =>
    ⟨fun noCar notRst => (exec_carrier_of_withoutCar h notRst noCar).1,
      fun noEdge off notRst => (exec_pulse_of_withoutEdge h notRst noEdge).1 off,
      fun off notRst => exec_speed_of_noClose h notRst off,
      fun noTick notRst => exec_counters_of_withoutTick h notRst noTick,
      exec_fault_of_withoutEdge h,
      fun noCar notRst => (exec_carrier_of_withoutCar h notRst noCar).2,
      fun noEdge notRst => (exec_pulse_of_withoutEdge h notRst noEdge).2⟩

/-- Settles O34. The range is kept item by item of the trace; the count within a window is read off the effect of a `TICK`. -/
theorem tickCountersStayInRangeAndCountUp : Obligations.TickCountersStayInRangeAndCountUp := by
  refine ⟨fun p => (ticksInRange_iff _).mp rfl, fun s t lo hi h => ?_, fun i s t h => exec_position_of_noClose h⟩
  exact (ticksInRange_iff t).mp (step_ticksInRange h ((ticksInRange_iff s).mpr ⟨lo, hi⟩))

/-- Settles O35. The tick that closes a window leaves the counters at 0, and from there no operation closes another. -/
theorem windowClosedExactlyFromTheLastPosition : Obligations.WindowClosedExactlyFromTheLastPosition :=
  fun _ _ _ h => ⟨exec_windowClosed_iff h, fun closed _ _ => exec_windowClosed_once h closed⟩

/-- Settles O36. An operation has at most one `EDGE`, so the count it finds is the one before the operation or the 0 of a window just
closed. -/
theorem faultRecordIsSticky : Obligations.FaultRecordIsSticky :=
  ⟨fun _ => rfl, fun _ _ => step_faultOvf_sticky, fun _ _ _ => exec_sets_faultOvf, fun _ _ => exec_edge_sets_faultOvf⟩

/-- Settles O52. That the inbound channel holds any number of bytes is the model's choice (log entry 11). -/
theorem inboundBytesQueueInOrder : Obligations.InboundBytesQueueInOrder := by
  intro s b rest items
  rw [step, items]
  rfl

/-- Settles O53. No `REPORT` runs in either state, so no event word is excluded. -/
theorem resetValuesOfTheBlock : Obligations.ResetValuesOfTheBlock :=
  ⟨fun _ => ⟨rfl, rfl, rfl, rfl, rfl, rfl, rfl, reportExcludes_of_idle rfl⟩,
    fun _ _ h => ⟨exec_rst_readReg h, exec_rst_windowClosed h, (exec_rst_faultOvf_draws h).1,
      reportExcludes_of_idle (exec_rst_idle h)⟩⟩

/-- Settles O54. The two bytes of the setpoint are those of `DAC_INIT`, and put together they are `DAC_INIT` again. -/
theorem resetValuesOfTheAdjacentLayer : Obligations.ResetValuesOfTheAdjacentLayer :=
  fun p => ⟨rfl, resetWith_analogSetpoint p, rfl, rfl, rfl, rfl⟩

end

section
/-! The memory section of the specification: the ordering of members that wait (rule R57), what an operation leaves of the adjacent layer
(rule R60), and idempotence (rule R56). -/

namespace Sys2Proof.Machine

/-! ### The members of a step -/

/-- The members of a form, in the order chosen, are the triggers whose operations it performs. -/
theorem restrictedTo_membersOf (o : Order) (i : Instr) :
    o.restrictedTo (membersOf i) = o.sequence.filter fun x => performedBy x i := by
  have same : ∀ x, (membersOf i).contains x = performedBy x i := by
    intro x
    rw [Bool.eq_iff_iff, List.contains_iff_mem, mem_membersOf]
  simp only [Order.restrictedTo, same]

/-! ### The frame of an operation in the adjacent layer (rules R60 and R153) -/

/-- Equal in everything outside the block but the outbound channel and the members that wait for it. -/
structure State.SameSurroundings (s t : State) : Prop where
  parser : t.parser = s.parser
  dacH : t.dacH = s.dacH
  dacL : t.dacL = s.dacL
  rxQueue : t.rxQueue = s.rxQueue
  inputs : t.inputs = s.inputs
  trace : t.trace = s.trace
  params : t.params = s.params

theorem State.SameSurroundings.trans {s t u : State} (first : s.SameSurroundings t) (second : t.SameSurroundings u) :
    s.SameSurroundings u where
  parser := second.parser.trans first.parser
  dacH := second.dacH.trans first.dacH
  dacL := second.dacL.trans first.dacL
  rxQueue := second.rxQueue.trans first.rxQueue
  inputs := second.inputs.trans first.inputs
  trace := second.trace.trans first.trace
  params := second.params.trans first.params

theorem perform_sameSurroundings {x : Trigger} {s t : State} (h : perform x s = .next t) : s.SameSurroundings t := by
  cases x with
  | car =>
    cases h
    exact ⟨rfl, rfl, rfl, rfl, rfl, rfl, rfl⟩
  | edge =>
    cases h
    obtain ⟨-, -, -, -, parser, dacH, dacL, rxQueue, inputs, trace, params, -⟩ := sameBut_fields (countPulse_sameBut s)
    exact ⟨parser, dacH, dacL, rxQueue, inputs, trace, params⟩
  | tick =>
    obtain ⟨parser, dacH, dacL, rxQueue, inputs, trace, params⟩ := (tick_effect h).adjacent
    exact ⟨parser, dacH, dacL, rxQueue, inputs, trace, params⟩

theorem performAll_sameSurroundings {ops : List Trigger} {s t : State} (h : performAll ops s = .next t) :
    s.SameSurroundings t := by
  induction ops generalizing s with
  | nil =>
    cases h
    exact ⟨rfl, rfl, rfl, rfl, rfl, rfl, rfl⟩
  | cons x xs ih =>
    obtain ⟨u, first, others⟩ := performAll_cons_next h
    exact (perform_sameSurroundings first).trans (ih others)

/-- Neither the members nor holding some of them touches what surrounds the block, whatever waits already. -/
theorem exec_sameSurroundings {i : Instr} (notRst : i ≠ .rst) {s t : State} (h : exec i s = .next t) :
    s.SameSurroundings t := by
  obtain ⟨ops, rest, u, -, -, run, rfl⟩ := exec_splits notRst h
  obtain ⟨parser, dacH, dacL, rxQueue, inputs, trace, params⟩ := performAll_sameSurroundings run
  exact ⟨parser, dacH, dacL, rxQueue, inputs, trace, params⟩

theorem exec_rst_inputs_rxQueue {s t : State} (h : exec .rst s = .next t) : t.inputs = s.inputs ∧ t.rxQueue = s.rxQueue := by
  cases h
  exact ⟨rfl, rfl⟩

theorem exec_channel_of_noClose {i : Instr} {s t : State} (h : exec i s = .next t) (notRst : i ≠ .rst)
    (off : t.windowClosed = false) : t.txSent = s.txSent ∧ t.txPending = s.txPending := by
  obtain ⟨done, effect, left⟩ := exec_effect notRst h
  obtain ⟨-, -, -, window⟩ := left.block
  obtain ⟨sent, pending, -⟩ := left.channel
  obtain ⟨-, sent', pending', -⟩ := effect.goesOn (window ▸ off)
  exact ⟨sent.trans sent', pending.trans pending'⟩

/-! ### Idempotence (rule R56) -/

theorem exec_rst_idempotent {s t : State} (h : exec .rst s = .next t) : exec .rst t = .next t := by
  cases h
  rfl

theorem exec_nop_idempotent {s t : State} (h : exec .nop s = .next t) : exec .nop t = .next t := by
  cases h
  rfl

/-- A toggle has no fixed point, so `CAR` never answers the state it started from. -/
theorem exec_car_ne_self (s : State) : exec .car s ≠ .next s := by
  have toggles : ∀ b : Bit, b ^^^ 1#1 ≠ b := by decide
  intro same
  exact toggles s.carrierOut (congrArg State.carrierOut (Host.Outcome.next.inj same))

end Sys2Proof.Machine

open Sys2Proof Sys2Proof.Machine

/-- Settles O60. A word with a `TICK` is delivered only where nothing waits, and `CAR` and `EDGE` commute with what does; that members wait
at all is the model's choice (log entry 18). -/
theorem heldMembersAreOnlyDelayed : Obligations.HeldMembersAreOnlyDelayed := by
  intro s t ew inputs rest items noRst h
  obtain ⟨x, rest', items', effect⟩ := step_next h
  obtain ⟨rfl, rfl⟩ := List.cons.inj (items.symm.trans items')
  have settled := deliverEvent_settles noRst effect
  rw [restrictedTo_membersOf, performHeld_setTrace] at settled
  exact settled

/-- Settles O30. `RST` writes the parser, the setpoint and the outbound channel; no other operation touches what surrounds the block, and
the channel gets bytes only from the `REPORT` of a closing `TICK`. -/
theorem operationsLeaveTheAdjacentLayer : Obligations.OperationsLeaveTheAdjacentLayer := by
  intro i s t h
  by_cases isRst : i = .rst
  · subst isRst
    obtain ⟨trace, params⟩ := exec_rst_trace_params h
    obtain ⟨inputs, rxQueue⟩ := exec_rst_inputs_rxQueue h
    exact ⟨params, inputs, trace, rxQueue, fun notRst => absurd rfl notRst⟩
  · have same := exec_sameSurroundings isRst h
    exact ⟨same.params, same.inputs, same.trace, same.rxQueue,
      fun _ => ⟨same.parser, same.dacH, same.dacL, exec_channel_of_noClose h isRst⟩⟩

/-- Settles O28. `RST` and `NOP` write values that do not depend on what they overwrite; `CAR` toggles. -/
theorem idempotentOperations : Obligations.IdempotentOperations := by
  refine ⟨fun i member s t h => ?_, fun _ t _ => exec_car_ne_self t⟩
  rcases List.mem_pair.mp member with rfl | rfl
  · exact exec_rst_idempotent h
  · exact exec_nop_idempotent h

end

section
/-! The encoding section of the specification: event words and their bytes (rules R70, R71 and R73), the telemetry packet (rule R79), and
written traces with their order annotations (rule R77). -/

namespace Sys2Proof

/-! ### Event words as bytes -/

/-- The byte of an event word has nothing above its four bits, so it is read as that word. -/
theorem decodeByte_setWidth (w : EventWord) : decodeByte (w.setWidth 8) = .ok (decode w) := by
  have value : (w.setWidth 8).toNat = w.toNat := by
    rw [BitVec.toNat_setWidth]
    omega
  simp [decodeByte, value, w.isLt]

@[simp] theorem decodeByte_encodeByte (i : Instr) : decodeByte (encodeByte i) = .ok i := by
  rw [encodeByte, decodeByte_setWidth, decode_encode]

theorem decodeBytes_encodeBytes (is : List Instr) : decodeBytes (encodeBytes is) = .ok is := by
  induction is with
  | nil => rfl
  | cons i is ih =>
    rw [encodeBytes] at ih
    simp [encodeBytes, decodeBytes, ih]

/-- Among the words that decode to `RST` only the one with no trigger bit is emitted (rule R77). -/
theorem encode_decode_of_emitted : ∀ w : EventWord, EventWord.emitted w = true → encode (decode w) = w := by decide

/-- A table word that decodes is an event word with zeros above it. -/
theorem decodeTableWord_some {nbits w : Nat} {i : Instr} (h : decodeTableWord nbits w = some i) :
    decode (BitVec.ofNat 4 w) = i := by
  unfold decodeTableWord at h
  split at h
  next fits =>
    have value : (BitVec.ofNat 8 w).toNat = w := by
      rw [BitVec.toNat_ofNat]
      omega
    by_cases small : w < 16
    · simpa [decodeByte, value, small] using h
    · simp [decodeByte, value, small] at h
  · cases h

end Sys2Proof

namespace Sys2Proof.Machine

/-! ### A step that takes an event word -/

theorem step_of_event {s : State} {ew : EventWord} {inputs : Inputs} {rest : List Stimulus}
    (items : s.trace = .event ew inputs :: rest) (allowed : s.reportExcludes ew = false) :
    step s = exec (decode ew) { s with trace := rest, inputs := inputs } := by
  have allowed' : (s.setTrace rest).reportExcludes ew = false := allowed
  simp only [step, items, deliver, deliverEvent, allowed', Bool.false_eq_true, if_false]
  rfl

/-- No `REPORT` excludes a reset (decision D25). -/
theorem reportExcludes_of_rst (s : State) {ew : EventWord} (rst : EventWord.rst ew = true) : s.reportExcludes ew = false := by
  simp [State.reportExcludes, rst]

theorem step_placeEvent (s : State) {ew : EventWord} (allowed : s.reportExcludes ew = false) :
    step (s.placeEvent ew) = exec (decode ew) s := by
  have placed : s.placeEvent ew = s.setTrace (.event ew s.inputs :: s.trace) := by
    simp [State.placeEvent, allowed]
  rw [placed]
  exact step_of_event rfl allowed

/-! ### The telemetry packet -/

theorem highByte_append_lowByte (v : BitVec 16) : highByte v ++ lowByte v = v := by
  rw [highByte, lowByte, BitVec.extractLsb'_append_extractLsb'_eq_extractLsb' (by rfl)]
  exact BitVec.extractLsb'_eq_self

theorem byte4_getLsbD (x : Sensors) {k : Nat} (h : k < 8) : x.byte4.getLsbD k = (decide (k = 0) && x.sensor8) := by
  simp [Sensors.byte4, BitVec.getLsbD_ofBool, h]

theorem byte5_bits (x : Sensors) :
    [x.byte5.getLsbD 7, x.byte5.getLsbD 6, x.byte5.getLsbD 5, x.byte5.getLsbD 4, x.byte5.getLsbD 3, x.byte5.getLsbD 2,
      x.byte5.getLsbD 1, x.byte5.getLsbD 0] =
    [x.sensor9, x.sensor1, x.sensor2, x.sensor3, x.sensor4, x.sensor5, x.sensor6, x.sensor7] := by
  simp only [Sensors.byte5, BitVec.getLsbD_append, BitVec.getLsbD_ofBool]
  simp

/-! ### Order annotations (rule R77) -/

@[simp] theorem Order.edgeBeforeTick_exchangeEdgeTick (o : Order) : o.exchangeEdgeTick.edgeBeforeTick = !o.edgeBeforeTick := by
  cases o <;> rfl

/-- `CAR` keeps its place when `EDGE` and `TICK` change theirs. -/
@[simp] theorem Order.idxOf_car_exchangeEdgeTick (o : Order) :
    o.exchangeEdgeTick.sequence.idxOf .car = o.sequence.idxOf .car := by
  cases o <;> rfl

/-- An annotation keeps an order that agrees with it and exchanges `EDGE` and `TICK` in one that does not. -/
theorem Order.annotated_some (o : Order) (x : EdgeTickOrder) :
    o.annotated (some x) = if o.edgeBeforeTick = decide (x = .edgeFirst) then o else o.exchangeEdgeTick := by
  cases x <;> cases h : o.edgeBeforeTick <;> simp [Order.annotated, h]

theorem Order.annotated_edgeBeforeTick (o : Order) (x : EdgeTickOrder) :
    (o.annotated (some x)).edgeBeforeTick = decide (x = .edgeFirst) := by
  rw [Order.annotated_some]
  split
  · assumption
  next differs =>
    rw [edgeBeforeTick_exchangeEdgeTick, Bool.eq_not.mpr differs, Bool.not_not]

theorem Order.annotated_of_agrees {o : Order} {x : EdgeTickOrder} (agrees : x = .edgeFirst ↔ o.edgeBeforeTick = true) :
    o.annotated (some x) = o := by
  rw [Order.annotated_some, if_pos (by simp [agrees])]

theorem Order.annotated_idxOf_car (o : Order) (a : Option EdgeTickOrder) :
    (o.annotated a).sequence.idxOf .car = o.sequence.idxOf .car := by
  cases a with
  | none => rfl
  | some x =>
    rw [Order.annotated_some]
    split
    · rfl
    · exact o.idxOf_car_exchangeEdgeTick

/-! ### A written trace as a schedule (rule R77) -/

theorem scheduleFrom_length (env : Nat → Inputs) (n : Nat) (ops : List (Instr × Option EdgeTickOrder)) :
    (scheduleFrom env n ops).length = ops.length := by
  induction ops generalizing n with
  | nil => rfl
  | cons op ops ih => simp [scheduleFrom, ih]

theorem scheduleFrom_getElem? (env : Nat → Inputs) (n k : Nat) (ops : List (Instr × Option EdgeTickOrder)) :
    (scheduleFrom env n ops)[k]? = ops[k]?.map fun p => .event (encode p.1) ((env (n + k)).annotated p.2) := by
  induction ops generalizing n k with
  | nil => rfl
  | cons op ops ih =>
    cases k with
    | zero => rfl
    | succ k =>
      have position : n + 1 + k = n + (k + 1) := by omega
      simp [scheduleFrom, ih, position]

/-- A single written operation, presented where no `REPORT` runs, is performed under the environment's choices and its own
annotation. -/
theorem step_load_op {s : State} (idle : s.reportRuns = false) (env : Nat → Inputs) (i : Instr) (a : Option EdgeTickOrder) :
    step (s.load env (.op i a)) = exec i { s with trace := [], inputs := (env 0).annotated a } := by
  have done := step_of_event (s := s.load env (.op i a)) rfl (reportExcludes_of_idle idle _)
  rw [decode_encode] at done
  exact done

/-! ### Every operation completes where the tick counters are in range -/

theorem performAll_ne_fault (ops : List Trigger) (s : State) (r : Fault) : performAll ops s ≠ .fault r := by
  induction ops generalizing s with
  | nil => simp [performAll]
  | cons x xs ih =>
    cases x with
    | car => exact ih s.toggleCarrier
    | edge => exact ih s.countPulse
    | tick =>
      simp only [performAll, perform, tickStep]
      cases s.ticksInRange
      · simp
      · exact ih s.tick

theorem exec_ne_fault (i : Instr) (s : State) (r : Fault) : exec i s ≠ .fault r := by
  by_cases isRst : i = .rst
  · subst isRst
    simp [exec, execRst]
  · rw [exec_eq_simultaneous isRst]
    rcases simultaneous_cases (membersOf i) s with ⟨u, -, -, held⟩ | ⟨-, whole⟩
    · simp [held]
    · rw [whole]
      exact performAll_ne_fault _ _ r

theorem exec_completes (i : Instr) {s : State} (inRange : s.ticksInRange = true) : ∃ t, exec i s = .next t := by
  cases h : exec i s with
  | next t => exact ⟨t, rfl⟩
  | fault r => exact absurd h (exec_ne_fault i s r)
  | refused r =>
    obtain rfl := exec_refused h
    obtain ⟨-, outOfRange⟩ := (exec_refuses_iff i s).mp h
    simp [inRange] at outOfRange

/-! ### The count around a closing `TICK` -/

theorem performAll_append_next {xs ys : List Trigger} {s t : State} (h : performAll (xs ++ ys) s = .next t) :
    ∃ u, performAll xs s = .next u ∧ performAll ys u = .next t := by
  rw [performAll_append] at h
  cases first : performAll xs s <;> simp only [first, reduceCtorEq] at h
  exact ⟨_, rfl, h⟩

theorem performAll_sameBut {ops : List Trigger} (noTick : Trigger.tick ∉ ops) {s t : State}
    (h : performAll ops s = .next t) : s.sameBut t := by
  obtain ⟨u, done, same, -⟩ := performAll_without_tick ops noTick s
  rw [h] at done
  cases done
  exact same

/-- Below the maximum each `EDGE` among `CAR` and `EDGE` members adds one, under every `OVF_MODE`. -/
theorem performAll_pulse_of_room {ops : List Trigger} (noTick : Trigger.tick ∉ ops) {s t : State}
    (room : s.pulseCount.toNat + ops.count .edge ≤ 65535) (h : performAll ops s = .next t) :
    t.pulseCount.toNat = s.pulseCount.toNat + ops.count .edge := by
  induction ops generalizing s with
  | nil =>
    cases h
    rfl
  | cons x xs ih =>
    have noTick' : Trigger.tick ∉ xs := fun later => noTick (List.mem_cons_of_mem _ later)
    cases x with
    | tick => exact absurd List.mem_cons_self noTick
    | car =>
      rw [List.count_cons_of_ne (by decide)] at room ⊢
      exact ih noTick' (s := s.toggleCarrier) room h
    | edge =>
      rw [List.count_cons_self] at room ⊢
      rcases countPulse_cases s with ⟨-, eq, one⟩ | ⟨full, -⟩ | ⟨full, -⟩ | ⟨full, -⟩
      · have counted : s.countPulse.pulseCount.toNat = s.pulseCount.toNat + 1 := by
          rw [eq]
          exact one
        rw [ih noTick' (s := s.countPulse) (by omega) h, counted]
        omega
      all_goals
        rw [full, BitVec.toNat_ofNat] at room
        omega

/-- The members of an operation around a `TICK` from (9, 9): the `EDGE` before it is in the captured count and the `EDGE` after it starts the
new one (rules R115 and R130). -/
theorem performAll_counts_around_close {i : Instr} {s t : State} (ticks : performedBy .tick i = true) (lo : s.tickLo = 9#4)
    (hi : s.tickHi = 9#4) (below : s.pulseCount.toNat < 65535)
    (h : performAll (s.inputs.order.restrictedTo (membersOf i)) (s.outWindowClosed false) = .next t) :
    t.speed.toNat = s.pulseCount.toNat + (if performedBy .edge i && s.inputs.order.edgeBeforeTick then 1 else 0) ∧
      t.pulseCount.toNat = (if performedBy .edge i && !s.inputs.order.edgeBeforeTick then 1 else 0) := by
  rcases members_around_tick s.inputs.order i with ⟨noTick, -⟩ | ⟨-, a, b, shape, freeA, freeB, edgeA, edgeB⟩
  · simp [noTick] at ticks
  · rw [shape] at h
    obtain ⟨u, before, others⟩ := performAll_append_next h
    obtain ⟨v, ticked, after⟩ := performAll_cons_next others
    obtain ⟨-, loA, hiA, -⟩ := sameBut_fields (performAll_sameBut freeA before)
    obtain ⟨speedB, -⟩ := sameBut_fields (performAll_sameBut freeB after)
    have effect := tick_effect ticked
    obtain ⟨-, -, captured, cleared, -⟩ := effect.closes (effect.window.mpr ⟨loA.trans lo, hiA.trans hi⟩)
    have start : (s.outWindowClosed false).pulseCount = s.pulseCount := rfl
    have counted := performAll_pulse_of_room freeA (by rw [start, edgeA]; split <;> omega) before
    have restarted := performAll_pulse_of_room freeB (by rw [cleared, edgeB]; split <;> decide) after
    rw [speedB, captured, counted, restarted, start, cleared, edgeA, edgeB]
    simp

/-- An operation with a `TICK` from (9, 9) closes the window and counts its `EDGE` once, before or after the capture; what waits for the
`REPORT` (log entry 18) is performed to read the new count. -/
theorem exec_counts_around_close {i : Instr} {s : State} (ticks : performedBy .tick i = true) (free : s.nothingHeld)
    (lo : s.tickLo = 9#4) (hi : s.tickHi = 9#4) (below : s.pulseCount.toNat < 65535) :
    ∃ t, exec i s = .next t ∧ t.windowClosed = true ∧
      t.speed.toNat = s.pulseCount.toNat + (if performedBy .edge i && s.inputs.order.edgeBeforeTick then 1 else 0) ∧
      t.performHeld.pulseCount.toNat = (if performedBy .edge i && !s.inputs.order.edgeBeforeTick then 1 else 0) := by
  have notRst : i ≠ .rst := by
    rintro rfl
    cases ticks
  obtain ⟨t, done⟩ := exec_completes i (s := s) ((ticksInRange_iff s).mpr (by simp [lo, hi]))
  obtain ⟨speed, count⟩ := performAll_counts_around_close ticks lo hi below (exec_performs notRst free done)
  obtain ⟨same, -⟩ := sameBut_fields (performHeld_sameBut t)
  have kept : t.performHeld.speed = t.speed := same
  exact ⟨t, done, (exec_windowClosed_iff done).mpr ⟨ticks, lo, hi⟩, kept ▸ speed, count⟩

end Sys2Proof.Machine

open Sys2Proof Sys2Proof.Machine

/-- Settles O3, by induction on the list. That an event word is laid out as a byte is the model's choice (log entry 14). -/
theorem encodedBytesDecodeBack : Obligations.EncodedBytesDecodeBack :=
  fun is => ⟨decodeBytes_encodeBytes is, List.length_map _⟩

/-- Settles O46. The two bytes of `SPEED` are its high and its low byte. -/
theorem packetLayout : Obligations.PacketLayout :=
  fun speed x => ⟨highByte speed, lowByte speed, x.byte4, x.byte5, rfl, highByte_append_lowByte speed,
    fun _ small => byte4_getLsbD x small, byte5_bits x⟩

/-- Settles O57. The order of an item is the environment's, with `EDGE` and `TICK` exchanged exactly where an annotation disagrees with
it; that `CAR` then keeps its place is the model's choice (log entry 17). -/
theorem annotationsChooseTheOrder : Obligations.AnnotationsChooseTheOrder := by
  refine fun env t => ⟨scheduleFrom_length env 0 t.expand, fun n i a written => ⟨(env n).order.annotated a, ?_, ?_, ?_, ?_, ?_, ?_⟩⟩
  · rw [scheduleOf, scheduleFrom_getElem?, written, Nat.zero_add]
    rfl
  · rintro rfl
    rfl
  · rintro rfl
    exact Order.annotated_edgeBeforeTick _ _
  · rintro rfl
    exact Order.annotated_edgeBeforeTick _ _
  · rintro x rfl agrees
    exact Order.annotated_of_agrees agrees
  · exact Order.annotated_idxOf_car _ _

/-- Settles O58. The annotated order decides on which side of the capture the `EDGE` is counted; that an `EDGE` after the `TICK` can wait
for the `REPORT` is the model's choice (log entry 18). -/
theorem annotatedFormsRunInTheOrderWritten : Obligations.AnnotatedFormsRunInTheOrderWritten := by
  intro env x i form s idle
  have written := (env 0).order.annotated_edgeBeforeTick x
  rw [step_load_op idle]
  refine ⟨⟨(env 0).order.annotated (some x), written, rfl⟩, fun lo hi below => ?_⟩
  obtain ⟨ticks, edges⟩ : performedBy .tick i = true ∧ performedBy .edge i = true := by
    rcases List.mem_pair.mp form with rfl | rfl <;> exact ⟨rfl, rfl⟩
  obtain ⟨t, done, closed, speed, count⟩ :=
    exec_counts_around_close (s := { s with trace := [], inputs := (env 0).annotated (some x) }) ticks
      ((reportRuns_iff s).mp idle).2 lo hi below
  have order : ((env 0).annotated (some x)).order.edgeBeforeTick = decide (x = .edgeFirst) := written
  simp only [edges, order, Bool.true_and] at speed count
  refine ⟨t, done, closed, BitVec.eq_of_toNat_eq ?_, BitVec.eq_of_toNat_eq ?_⟩
  · rw [speed]
    cases x <;> simp
    omega
  · rw [count]
    cases x <;> simp

/-- Settles O1, word by word. -/
theorem decodeOfEveryEventWord : Obligations.DecodeOfEveryEventWord :=
  ⟨rfl, rfl⟩

/-- Settles O2. Both directions go over the nine operations and the nine emitted words. -/
theorem decodeEncodeAgree : Obligations.DecodeEncodeAgree :=
  ⟨fun i => ⟨decode_encode i, encode_emitted i⟩, encode_decode_of_emitted⟩

/-- Settles O6. A word that no `REPORT` excludes is decoded and run on the rest of the trace. -/
theorem stepRunsTheDecodedOperation : Obligations.StepRunsTheDecodedOperation :=
  fun _ _ _ _ => step_of_event

/-- Settles O7. Placing a word is the model's own operation, and keeps the state's environment choices (log entry 14). -/
theorem placedWordIsTheNextOperation : Obligations.PlacedWordIsTheNextOperation := by
  intro s nbits w i table allowed
  rw [State.withFetchWord, step_placeEvent s allowed, decodeTableWord_some table]

/-- Settles O8. A reset is never excluded and always completes, and it leaves the rest of the trace as it is. -/
theorem resetWordDiscardsItsTriggers : Obligations.ResetWordDiscardsItsTriggers := by
  intro s ew inputs rest items rst
  have done := step_of_event items (reportExcludes_of_rst s rst)
  rw [decode_of_rst rst] at done
  exact ⟨done, _, done, rfl⟩

end

section
/-! The carrier generator: what `CAR` does within its step (rule R100), the parity of a run (rule R101), and what `CAR` commutes with
(rule R102). -/

namespace Sys2Proof.Machine

/-! ### The toggle of the members of one step (rule R100) -/

theorem countPulse_carrierOut (s : State) : s.countPulse.carrierOut = s.carrierOut := by
  rcases countPulse_cases s with ⟨-, eq, -⟩ | ⟨-, -, eq⟩ | ⟨-, -, eq⟩ | ⟨-, -, eq⟩ <;> rw [eq] <;> rfl

theorem performAll_carrierOut {ops : List Trigger} {s t : State} (h : performAll ops s = .next t) :
    t.carrierOut = s.carrierOut ^^^ BitVec.ofNat 1 (ops.count .car) := by
  induction ops generalizing s with
  | nil =>
    cases h
    simp
  | cons x xs ih =>
    obtain ⟨u, first, others⟩ := performAll_cons_next h
    rw [ih others]
    cases x with
    | car =>
      cases first
      rw [List.count_cons_self, toggle_succ]
      rfl
    | edge =>
      cases first
      rw [countPulse_carrierOut, List.count_cons_of_ne (by decide)]
    | tick => rw [(tick_effect first).carrier, List.count_cons_of_ne (by decide)]

/-- Where no `CAR` is left waiting, the one among the members of the operation, if there is one, has been performed. -/
theorem exec_carrierOut_of_noCarHeld {i : Instr} (notRst : i ≠ .rst) {s t : State} (h : exec i s = .next t)
    (free : t.heldCar = false) :
    t.carrierOut = s.carrierOut ^^^ BitVec.ofNat 1 (if performedBy .car i then 1 else 0) := by
  obtain ⟨ops, rest, u, split, -, run, rfl⟩ := exec_splits notRst h
  have noneWaits : rest.count .car = 0 := by
    rw [List.count_eq_zero]
    intro waits
    simp [State.hold, waits] at free
  have once : ops.count .car = if performedBy .car i then 1 else 0 := by
    rw [← (count_members s.inputs.order i).1, ← split, List.count_append, noneWaits, Nat.add_zero]
  rw [← once]
  exact (performAll_carrierOut run :)

/-! ### The first item of a run, and the rest -/

theorem take_succ_of_step {s u : State} (h : step s = .next u) (k : Nat) :
    s.trace.take (k + 1) = s.trace.take 1 ++ u.trace.take k := by
  obtain ⟨⟨x, items⟩, -⟩ := step_trace_params h
  simp [items]

theorem noReset_append (xs ys : List Stimulus) : noReset (xs ++ ys) = (noReset xs && noReset ys) :=
  List.all_append

theorem timesPerformed_append (x : Trigger) (xs ys : List Stimulus) :
    timesPerformed x (xs ++ ys) = timesPerformed x xs + timesPerformed x ys :=
  List.countP_append

/-! ### The parity of a run (rule R101) -/

/-- On one bit, toggling `m` times and then `n` times is toggling `m + n` times. -/
theorem ofNat_one_add (m n : Nat) : BitVec.ofNat 1 (m + n) = BitVec.ofNat 1 m ^^^ BitVec.ofNat 1 n := by
  have addIsXor : ∀ a b : Bit, a + b = a ^^^ b := by decide
  rw [BitVec.ofNat_add, addIsXor]

/-- A step that is no reset toggles the settled carrier as often as its item performs a `CAR`: an item of the adjacent layer performs
none. -/
theorem step_carrier {s t : State} (h : step s = .next t) (noRst : noReset (s.trace.take 1) = true) :
    t.performHeld.carrierOut =
      s.performHeld.carrierOut ^^^ BitVec.ofNat 1 (timesPerformed .car (s.trace.take 1)) := by
  rcases step_effect h noRst with ⟨ew, inputs, rest, items, -, noRstBit, effect⟩ | ⟨x, rest, items, adjacent, -, block, -⟩
  · have performed := performedBy_decode noRstBit .car inputs
    rw [effect.carrier, items, performed]
    simp [timesPerformed, List.countP_cons]
  · have noCar : timesPerformed .car (s.trace.take 1) = 0 := by
      rw [items]
      cases x with
      | event ew inputs => cases adjacent
      | txEmpty | rxByte _ | mainLoop => rfl
    obtain ⟨carrier, -⟩ := block
    simp [noCar, carrier]

theorem run_carrier {k : Nat} {s t : State} (noRst : noReset (s.trace.take k) = true) (h : run k s = .next t) :
    t.performHeld.carrierOut =
      s.performHeld.carrierOut ^^^ BitVec.ofNat 1 (timesPerformed .car (s.trace.take k)) := by
  induction k generalizing s with
  | zero =>
    cases h
    simp [timesPerformed]
  | succ k ih =>
    obtain ⟨u, first, others⟩ := run_succ_next h
    rw [take_succ_of_step first k, noReset_append, Bool.and_eq_true] at noRst
    obtain ⟨noRstFirst, noRstOthers⟩ := noRst
    rw [ih noRstOthers others, step_carrier first noRstFirst, take_succ_of_step first k, timesPerformed_append,
      ofNat_one_add, BitVec.xor_assoc]

/-! ### What a `CAR` commutes with (rule R102) -/

/-- An outcome whose next state has the carrier toggled. -/
def carrierToggled : Host.Outcome State Fault Refusal → Host.Outcome State Fault Refusal
  | .next t => .next t.toggleCarrier
  | .fault r => .fault r
  | .refused r => .refused r

theorem tick_toggleCarrier (s : State) : s.toggleCarrier.tick = s.tick.toggleCarrier := by
  by_cases lo : s.tickLo + 1#4 = 10#4
  · by_cases hi : s.tickHi + 1#4 = 10#4
    · rw [tick_of_close s lo hi, tick_of_close s.toggleCarrier lo hi, report_eq, report_eq]
      rfl
    · rw [tick_of_carry s lo hi, tick_of_carry s.toggleCarrier lo hi]
      rfl
  · rw [tick_of_lo s lo, tick_of_lo s.toggleCarrier lo]
    rfl

theorem perform_toggleCarrier (x : Trigger) (s : State) : perform x s.toggleCarrier = carrierToggled (perform x s) := by
  cases x with
  | car => rfl
  | edge => exact congrArg Host.Outcome.next (countPulse_toggleCarrier s)
  | tick =>
    have range : s.toggleCarrier.ticksInRange = s.ticksInRange := rfl
    simp only [perform, tickStep, range, tick_toggleCarrier]
    cases s.ticksInRange <;> rfl

theorem performAll_toggleCarrier (ops : List Trigger) (s : State) :
    performAll ops s.toggleCarrier = carrierToggled (performAll ops s) := by
  induction ops generalizing s with
  | nil => rfl
  | cons x xs ih =>
    simp only [performAll, perform_toggleCarrier]
    cases perform x s with
    | next u => exact ih u
    | fault r | refused r => rfl

theorem performAll_append_car (ops : List Trigger) (s : State) :
    performAll (ops ++ [.car]) s = carrierToggled (performAll ops s) := by
  rw [performAll_append]
  cases performAll ops s <;> rfl

/-- What is held and when does not depend on the carrier's level. -/
theorem simultaneous_toggleCarrier (members : List Trigger) (s : State) :
    simultaneous members s.toggleCarrier = carrierToggled (simultaneous members s) := by
  have start : s.toggleCarrier.outWindowClosed false = (s.outWindowClosed false).toggleCarrier := rfl
  have order : s.toggleCarrier.inputs = s.inputs := rfl
  have holds : ∀ u : State, u.toggleCarrier.reportHolds = u.reportHolds := fun _ => rfl
  simp only [simultaneous, start, order, performAll_toggleCarrier]
  cases performAll (throughTick (s.inputs.order.restrictedTo members)) (s.outWindowClosed false) with
  | next u =>
    simp only [carrierToggled, holds]
    cases u.reportHolds
    · exact performAll_toggleCarrier _ u
    · rfl
  | fault r | refused r => rfl

theorem exec_toggleCarrier {i : Instr} (notRst : i ≠ .rst) (s : State) :
    exec i s.toggleCarrier = carrierToggled (exec i s) := by
  rw [exec_eq_simultaneous notRst, exec_eq_simultaneous notRst, simultaneous_toggleCarrier]

theorem execAll_toggleCarrier {ops : List Instr} (noRst : Instr.rst ∉ ops) (s : State) :
    execAll ops s.toggleCarrier = carrierToggled (execAll ops s) := by
  induction ops generalizing s with
  | nil => rfl
  | cons i is ih =>
    obtain ⟨notRst, noRst'⟩ := not_or.mp (mt List.mem_cons.mpr noRst)
    simp only [execAll, exec_toggleCarrier (Ne.symm notRst)]
    cases exec i s with
    | next u => exact ih noRst' u
    | fault r | refused r => rfl

theorem execAll_append_car (ops : List Instr) (s : State) :
    execAll (ops ++ [.car]) s = outputCleared (carrierToggled (execAll ops s)) := by
  induction ops generalizing s with
  | nil => rfl
  | cons i is ih =>
    simp only [List.cons_append, execAll]
    cases exec i s with
    | next u => exact ih u
    | fault r | refused r => rfl

/-- Every operation writes the output, so what it held before does not matter. -/
theorem exec_outWindowClosed (i : Instr) (b : Bool) (s : State) : exec i (s.outWindowClosed b) = exec i s := by
  by_cases isRst : i = .rst
  · subst isRst
    rfl
  · rw [exec_eq_simultaneous isRst, exec_eq_simultaneous isRst]
    rfl

/-- The output at the start shows at the end of a sequence only where the sequence is empty. -/
theorem outputCleared_execAll_outWindowClosed (ops : List Instr) (b : Bool) (s : State) :
    outputCleared (execAll ops (s.outWindowClosed b)) = outputCleared (execAll ops s) := by
  cases ops with
  | nil => rfl
  | cons i is => simp only [execAll, exec_outWindowClosed]

end Sys2Proof.Machine

open Sys2Proof Sys2Proof.Machine

/-- Settles O40, by induction on the number of steps. The levels are those with the members that wait performed, since an unfinished step
can still have its `CAR` to perform; that members wait at all is the model's choice (log entry 18). -/
theorem carrierParityLaw : Obligations.CarrierParityLaw := by
  intro k s t noRst h
  have lastBit : ∀ n, BitVec.ofNat 1 (n % 2) = BitVec.ofNat 1 n := fun n => BitVec.eq_of_toNat_eq (by simp)
  rw [lastBit]
  exact run_carrier noRst h

/-- Settles O12. A member `CAR` is performed within its step unless it waits for a `REPORT` (log entry 18). -/
theorem carTogglesTheCarrier : Obligations.CarTogglesTheCarrier := by
  refine ⟨rfl, fun _ => rfl, fun i form s t h free => ?_⟩
  obtain ⟨notRst, performs⟩ : i ≠ .rst ∧ performedBy .car i = true := by
    simp only [List.mem_cons, List.not_mem_nil, or_false] at form
    rcases form with rfl | rfl | rfl <;> decide
  simpa [performs] using exec_carrierOut_of_noCarHeld notRst h free

/-- Settles O25. No operation but `RST` reads or writes the carrier except to toggle it, so a toggle passes through a sequence of operations
or of members; the output of the last step is the only thing else that a `CAR` writes. -/
theorem carCommutesWithEveryOperationButRst : Obligations.CarCommutesWithEveryOperationButRst := by
  refine ⟨fun ops s noRst => ?_, fun ops s => ?_⟩
  · calc execAll (ops ++ [.car]) s
      _ = outputCleared (carrierToggled (execAll ops s)) := execAll_append_car ops s
      _ = outputCleared (execAll ops s.toggleCarrier) := by rw [execAll_toggleCarrier noRst]
      _ = outputCleared (execAll ops (s.toggleCarrier.outWindowClosed false)) :=
        (outputCleared_execAll_outWindowClosed ops false _).symm
      _ = outputCleared (execAll (.car :: ops) s) := rfl
  · calc performAll (.car :: ops) s
      _ = performAll ops s.toggleCarrier := rfl
      _ = carrierToggled (performAll ops s) := performAll_toggleCarrier ops s
      _ = performAll (ops ++ [.car]) s := (performAll_append_car ops s).symm

end

section
/-! The pulse-edge counter: `EDGE` in one step and the pin behind it (rules R110, R111 and R113), and what becomes of every edge of a run
(rules R114 and R115). -/

namespace Sys2Proof.Machine

/-! ### One `EDGE` (rules R110 and R113) -/

theorem countPulse_of_below {s : State} (below : s.pulseCount.toNat < 65535) :
    s.countPulse = s.setPulseCount (s.pulseCount + 1#16) ∧ (s.pulseCount + 1#16).toNat = s.pulseCount.toNat + 1 := by
  rcases countPulse_cases s with ⟨-, counted⟩ | ⟨full, -⟩ | ⟨full, -⟩ | ⟨full, -⟩
  · exact counted
  all_goals simp [full] at below

theorem countPulse_of_full {s : State} (full : s.pulseCount = 65535#16) : s.countPulse = s.overflowPulse := by
  simp [State.countPulse, Config.maxPulse, Config.wPulse, full]

/-- The transition that counts is the falling one (rule R111, decision D14). -/
theorem isEdgeTrigger_iff (before after : Bool) :
    isEdgeTrigger Config.edgePolarity before after = true ↔ before = true ∧ after = false := by
  simp [isEdgeTrigger, Config.edgePolarity]

/-! ### An `EDGE` beside the closing `TICK` (rule R115) -/

theorem exec_tickHi_of_windowClosed {i : Instr} {s t : State} (h : exec i s = .next t) (notRst : i ≠ .rst)
    (closed : t.windowClosed = true) : t.tickHi = 0#4 := by
  obtain ⟨done, effect, left⟩ := exec_effect notRst h
  obtain ⟨-, -, hi, window⟩ := left.block
  obtain ⟨-, cleared, -⟩ := effect.closes (window ▸ closed)
  exact hi.trans cleared

/-- The members of an operation pass on every count: what they capture and what they leave is what they found and the `EDGE`, on whichever
side of the capture it comes. -/
theorem OperationEffect.edges_conserved {i : Instr} {s t : State} (effect : OperationEffect i s t)
    (mode : s.params.ovfMode = .fault) (clear : t.faultOvf = false) :
    (if t.windowClosed then t.speed.toNat else 0) + t.pulseCount.toNat =
      s.pulseCount.toNat + if performedBy .edge i then 1 else 0 := by
  cases window : t.windowClosed with
  | false =>
    obtain ⟨-, -, -, -, -, counted⟩ := effect.goesOn window
    simpa using counted mode clear
  | true =>
    obtain ⟨-, -, -, -, counted⟩ := effect.closes window
    obtain ⟨speed, pulse⟩ := counted mode clear
    rw [speed, pulse]
    cases performedBy .edge i <;> cases s.inputs.order.edgeBeforeTick <;> simp

/-! ### One step, on the settled states -/

theorem performHeld_speed_windowClosed (s : State) :
    s.performHeld.speed = s.speed ∧ s.performHeld.windowClosed = s.windowClosed := by
  obtain ⟨speed, -, -, window, -⟩ := sameBut_fields (performHeld_sameBut s)
  exact ⟨speed, window⟩

theorem closesInto_of_cons {s t : State} {x : Stimulus} {rest : List Stimulus} (items : s.trace = x :: rest) :
    s.closesInto t = (x.ofBlock && t.windowClosed) := by
  simp [State.closesInto, items]

theorem timesPerformed_take_one_of_event {ew : EventWord} {inputs : Inputs} {xs rest : List Stimulus}
    (items : xs = .event ew inputs :: rest) (noRst : EventWord.rst ew = false) (x : Trigger) :
    timesPerformed x (xs.take 1) = if performedBy x (decode ew) then 1 else 0 := by
  simp [timesPerformed, items, performedBy_decode noRst x inputs, List.countP_cons]

theorem timesPerformed_take_one_of_adjacent {y : Stimulus} {xs rest : List Stimulus} (items : xs = y :: rest)
    (adjacent : y.ofBlock = false) (x : Trigger) : timesPerformed x (xs.take 1) = 0 := by
  rw [items]
  cases y with
  | event ew inputs => cases adjacent
  | txEmpty | rxByte _ | mainLoop => rfl

theorem step_settled_faultOvf_sticky {s t : State} (h : step s = .next t) (noRst : noReset (s.trace.take 1) = true)
    (recorded : s.performHeld.faultOvf = true) : t.performHeld.faultOvf = true := by
  rcases step_effect h noRst with ⟨_, _, _, -, -, -, effect⟩ | ⟨_, _, -, -, -, block, -⟩
  · exact effect.sticky recorded
  · obtain ⟨-, -, -, -, -, -, fault, -⟩ := block
    exact fault ▸ recorded

theorem step_speed_of_noClose {s t : State} (h : step s = .next t) (noRst : noReset (s.trace.take 1) = true)
    (noClose : s.closesInto t = false) : t.speed = s.speed := by
  obtain ⟨speed_s, -⟩ := performHeld_speed_windowClosed s
  obtain ⟨speed_t, window_t⟩ := performHeld_speed_windowClosed t
  rw [← speed_s, ← speed_t]
  rcases step_effect h noRst with ⟨_, _, _, items, -, -, effect⟩ | ⟨_, _, -, -, -, block, -⟩
  · rw [closesInto_of_cons items, Stimulus.ofBlock, Bool.true_and] at noClose
    exact (effect.goesOn (window_t.trans noClose)).1
  · obtain ⟨-, -, speed, -⟩ := block
    exact speed.symm

/-- A step that is no reset passes on every count, a closing step as well as any other. -/
theorem step_edges_conserved {s t : State} (h : step s = .next t) (noRst : noReset (s.trace.take 1) = true)
    (mode : s.params.ovfMode = .fault) (clear : t.performHeld.faultOvf = false) :
    (if s.closesInto t then t.speed.toNat else 0) + t.performHeld.pulseCount.toNat =
      s.performHeld.pulseCount.toNat + timesPerformed .edge (s.trace.take 1) := by
  rcases step_effect h noRst with ⟨ew, inputs, rest, items, -, noRstBit, effect⟩ | ⟨x, rest, items, adjacent, -, block, -⟩
  · obtain ⟨speed, window⟩ := performHeld_speed_windowClosed t
    have conserved := effect.edges_conserved ((performHeld_trace_params s).2 ▸ mode) clear
    rw [speed, window] at conserved
    rwa [closesInto_of_cons items, Stimulus.ofBlock, Bool.true_and, timesPerformed_take_one_of_event items noRstBit]
  · obtain ⟨-, pulse, -⟩ := block
    simp [closesInto_of_cons items, adjacent, timesPerformed_take_one_of_adjacent items adjacent, pulse]

/-! ### A run -/

theorem noReset_take_succ {s u : State} {k : Nat} (first : step s = .next u) (noRst : noReset (s.trace.take (k + 1)) = true) :
    noReset (s.trace.take 1) = true ∧ noReset (u.trace.take k) = true := by
  rwa [take_succ_of_step first k, noReset_append, Bool.and_eq_true] at noRst

theorem run_settled_faultOvf_sticky {k : Nat} {s t : State} (noRst : noReset (s.trace.take k) = true)
    (h : run k s = .next t) (recorded : s.performHeld.faultOvf = true) : t.performHeld.faultOvf = true := by
  induction k generalizing s with
  | zero =>
    cases h
    exact recorded
  | succ k ih =>
    obtain ⟨u, first, others⟩ := run_succ_next h
    obtain ⟨noRstFirst, noRstOthers⟩ := noReset_take_succ first noRst
    exact ih noRstOthers others (step_settled_faultOvf_sticky first noRstFirst recorded)

/-- What a run captures and what it leaves in the counter is what was there and the `EDGE`s it performed (rule R115). -/
theorem run_edges_conserved {k : Nat} {s t : State} (noRst : noReset (s.trace.take k) = true)
    (mode : s.params.ovfMode = .fault) (h : run k s = .next t) (clear : t.performHeld.faultOvf = false) :
    capturedIn k s + t.performHeld.pulseCount.toNat =
      s.performHeld.pulseCount.toNat + timesPerformed .edge (s.trace.take k) := by
  induction k generalizing s with
  | zero =>
    cases h
    simp [capturedIn, timesPerformed]
  | succ k ih =>
    obtain ⟨u, first, others⟩ := run_succ_next h
    obtain ⟨noRstFirst, noRstOthers⟩ := noReset_take_succ first noRst
    have clearFirst : u.performHeld.faultOvf = false := by
      rw [Bool.eq_false_iff]
      intro recorded
      simp [run_settled_faultOvf_sticky noRstOthers others recorded] at clear
    have ofFirst := step_edges_conserved first noRstFirst mode clearFirst
    have ofOthers := ih noRstOthers ((step_trace_params first).2 ▸ mode) others
    simp only [capturedIn, first]
    rw [take_succ_of_step first k, timesPerformed_append]
    omega

theorem windowsIn_succ_eq_zero {k : Nat} {s u : State} (first : step s = .next u) (none : windowsIn (k + 1) s = 0) :
    s.closesInto u = false ∧ windowsIn k u = 0 := by
  simpa [windowsIn, first] using none

theorem capturedIn_of_noWindow {k : Nat} {s : State} (none : windowsIn k s = 0) : capturedIn k s = 0 := by
  induction k generalizing s with
  | zero => rfl
  | succ k ih =>
    cases first : step s with
    | next u =>
      obtain ⟨noClose, noneOthers⟩ := windowsIn_succ_eq_zero first none
      simp [capturedIn, first, noClose, ih noneOthers]
    | fault r | refused r => simp [capturedIn, first]

theorem run_speed_of_noWindow {k : Nat} {s t : State} (noRst : noReset (s.trace.take k) = true)
    (h : run k s = .next t) (none : windowsIn k s = 0) : t.speed = s.speed := by
  induction k generalizing s with
  | zero =>
    cases h
    rfl
  | succ k ih =>
    obtain ⟨u, first, others⟩ := run_succ_next h
    obtain ⟨noRstFirst, noRstOthers⟩ := noReset_take_succ first noRst
    obtain ⟨noClose, noneOthers⟩ := windowsIn_succ_eq_zero first none
    exact (ih noRstOthers others noneOthers).trans (step_speed_of_noClose first noRstFirst noClose)

end Sys2Proof.Machine

open Sys2Proof Sys2Proof.Machine

/-- Settles O43, by induction on the number of steps. The counts are those with the members that wait performed, since an unfinished step
can still have its `EDGE` to count; that members wait at all is the model's choice (log entry 18). -/
theorem everyEdgeIsCountedExactlyOnce : Obligations.EveryEdgeIsCountedExactlyOnce :=
  fun _ _ _ => run_edges_conserved

/-- Settles O23. The closing `TICK` clears both counters whatever waits behind it, and the order puts the `EDGE` on one side of the
capture. -/
theorem edgeWithTheClosingTickIsCountedOnce : Obligations.EdgeWithTheClosingTickIsCountedOnce := by
  intro i form s free lo hi below
  obtain ⟨notRst, ticks, edges⟩ : i ≠ .rst ∧ performedBy .tick i = true ∧ performedBy .edge i = true := by
    rcases List.mem_pair.mp form with rfl | rfl <;> decide
  obtain ⟨t, done, closed, speed, count⟩ := exec_counts_around_close ticks free lo hi below
  have lo0 := exec_tickLo_of_windowClosed done closed
  have hi0 := exec_tickHi_of_windowClosed done notRst closed
  rw [edges, Bool.true_and] at speed count
  refine ⟨t, done, closed, lo0, hi0, BitVec.eq_of_toNat_eq ?_, BitVec.eq_of_toNat_eq ?_⟩
  · rw [speed]
    split
    · exact (countPulse_of_below below).2.symm
    · rfl
  · rw [count]
    cases s.inputs.order.edgeBeforeTick <;> rfl

/-- Settles O42. Where no window closes nothing is captured, so the conservation of edges speaks of the counter alone. -/
theorem pulseCountingLaw : Obligations.PulseCountingLaw := by
  intro k s t noRst mode h clear noWindow
  have conserved := run_edges_conserved noRst mode h clear
  rw [capturedIn_of_noWindow noWindow, Nat.zero_add] at conserved
  exact ⟨conserved, run_speed_of_noWindow noRst h noWindow⟩

/-- Settles O13. The output is cleared first, which the count neither reads nor writes. -/
theorem edgeAddsOneBelowTheMaximum : Obligations.EdgeAddsOneBelowTheMaximum := by
  refine ⟨rfl, fun s below => ?_⟩
  obtain ⟨counted, noWrap⟩ := countPulse_of_below (s := s.outWindowClosed false) below
  exact ⟨congrArg Host.Outcome.next counted, noWrap⟩

/-- Settles O14. The free value of `fault` is the one the state's counter of draws names (log entry 6). -/
theorem edgeAtTheMaximumFollowsOvfMode : Obligations.EdgeAtTheMaximumFollowsOvfMode := by
  intro s full
  have overflows := countPulse_of_full (s := s.outWindowClosed false) full
  have mode : (s.outWindowClosed false).params.ovfMode = s.params.ovfMode := rfl
  simp only [exec, execEdge, overflows, State.overflowPulse, mode]
  cases s.params.ovfMode <;> rfl

/-- Settles O56. That the falling transition is the one that counts is the spec's decision D14. -/
theorem onlyTheFallingTransitionCounts : Obligations.OnlyTheFallingTransitionCounts :=
  fun before after _ => ⟨fun falls => if_pos ((isEdgeTrigger_iff before after).mpr falls),
    fun others => if_neg (mt (isEdgeTrigger_iff before after).mp others)⟩

end

section
/-! The timebase: a `TICK` alone (rules R120, R121, R123 and R124), `NOP` (R129), the simultaneous forms (R57, R130 and R131), and
what the `TICK`s of a run add up to (rules R126 to R128). -/

namespace Sys2Proof.Machine

/-! ### The position in a window (rule R126) -/

/-- How many `TICK`s of the present window have been performed, 0 to 99 (rule R126). -/
def State.position (s : State) : Nat :=
  10 * s.tickHi.toNat + s.tickLo.toNat

theorem performHeld_position (s : State) : s.performHeld.position = s.position := by
  obtain ⟨-, lo, hi, -⟩ := sameBut_fields (performHeld_sameBut s)
  rw [State.position, lo, hi]
  rfl

/-- A `TICK` among the members adds one to the position, which falls by a whole window where one closes. -/
theorem OperationEffect.ticks_conserved {i : Instr} {s t : State} (effect : OperationEffect i s t) :
    t.position + 100 * (if t.windowClosed then 1 else 0) = s.position + if performedBy .tick i then 1 else 0 := by
  simp only [State.position]
  cases window : t.windowClosed with
  | false =>
    cases ticks : performedBy .tick i with
    | false =>
      obtain ⟨lo, hi⟩ := effect.withoutTick ticks
      simp [lo, hi]
    | true =>
      obtain ⟨-, -, -, -, counts, -⟩ := effect.goesOn window
      simpa using (counts ticks).1
  | true =>
    obtain ⟨ticks, lo, hi⟩ := effect.window.mp window
    obtain ⟨lo', hi', -⟩ := effect.closes window
    simp [ticks, lo, hi, lo', hi']

theorem step_ticks_conserved {s t : State} (h : step s = .next t) (noRst : noReset (s.trace.take 1) = true) :
    t.position + 100 * (if s.closesInto t then 1 else 0) = s.position + timesPerformed .tick (s.trace.take 1) := by
  rw [← performHeld_position s, ← performHeld_position t]
  rcases step_effect h noRst with ⟨ew, inputs, rest, items, -, noRstBit, effect⟩ | ⟨x, rest, items, adjacent, -, block, -⟩
  · have conserved := effect.ticks_conserved
    rw [(performHeld_speed_windowClosed t).2] at conserved
    rwa [closesInto_of_cons items, Stimulus.ofBlock, Bool.true_and, timesPerformed_take_one_of_event items noRstBit]
  · obtain ⟨-, -, -, lo, hi, -⟩ := block
    simp [closesInto_of_cons items, adjacent, timesPerformed_take_one_of_adjacent items adjacent, State.position, lo, hi]

/-- Every `TICK` of a run is in the windows it closes or in the position it ends at. -/
theorem run_ticks_conserved {k : Nat} {s t : State} (noRst : noReset (s.trace.take k) = true) (h : run k s = .next t) :
    t.position + 100 * windowsIn k s = s.position + timesPerformed .tick (s.trace.take k) := by
  induction k generalizing s with
  | zero =>
    cases h
    simp [windowsIn, timesPerformed]
  | succ k ih =>
    obtain ⟨u, first, others⟩ := run_succ_next h
    obtain ⟨noRstFirst, noRstOthers⟩ := noReset_take_succ first noRst
    have ofFirst := step_ticks_conserved first noRstFirst
    have ofOthers := ih noRstOthers others
    simp only [windowsIn, first]
    rw [take_succ_of_step first k, timesPerformed_append]
    omega

theorem run_ticksInRange {k : Nat} {s t : State} (h : run k s = .next t) (inRange : s.ticksInRange = true) :
    t.ticksInRange = true := by
  induction k generalizing s with
  | zero =>
    cases h
    exact inRange
  | succ k ih =>
    obtain ⟨u, first, others⟩ := run_succ_next h
    exact ih others (step_ticksInRange first inRange)

/-- The position law (rule R126): the counters stay in range, so the conserved number of `TICK`s has one reading as windows, decades and
units. -/
theorem run_position {k : Nat} {s t : State} (inRange : s.ticksInRange = true) (noRst : noReset (s.trace.take k) = true)
    (h : run k s = .next t) :
    t.tickLo.toNat = (s.position + timesPerformed .tick (s.trace.take k)) % 10 ∧
      t.tickHi.toNat = (s.position + timesPerformed .tick (s.trace.take k)) / 10 % 10 ∧
      windowsIn k s = (s.position + timesPerformed .tick (s.trace.take k)) / 100 := by
  obtain ⟨lo, hi⟩ := (ticksInRange_iff t).mp (run_ticksInRange h inRange)
  rw [← run_ticks_conserved noRst h, State.position]
  omega

/-! ### The last step of a run -/

theorem run_succ_last {k : Nat} {s t : State} (h : run (k + 1) s = .next t) :
    ∃ u, run k s = .next u ∧ u.trace = s.trace.drop k ∧ step u = .next t := by
  induction k generalizing s with
  | zero =>
    obtain ⟨u, only, done⟩ := run_succ_next h
    cases done
    exact ⟨s, rfl, rfl, only⟩
  | succ k ih =>
    obtain ⟨v, first, others⟩ := run_succ_next h
    obtain ⟨u, before, left, last⟩ := ih others
    obtain ⟨⟨x, items⟩, -⟩ := step_trace_params first
    refine ⟨u, ?_, ?_, last⟩
    · rwa [run, first]
    · rw [left, items, List.drop_succ_cons]

theorem run_params {k : Nat} {s t : State} (h : run k s = .next t) : t.params = s.params := by
  induction k generalizing s with
  | zero =>
    cases h
    rfl
  | succ k ih =>
    obtain ⟨u, first, others⟩ := run_succ_next h
    exact (ih others).trans (step_trace_params first).2

/-- The step that closes a window, on the settled states: what was counted and an `EDGE` before the `TICK` are captured, and an `EDGE` after
it starts the new count (rules R123 and R130). -/
theorem step_closes {s t : State} {ew : EventWord} {inputs : Inputs} {rest : List Stimulus} (h : step s = .next t)
    (noRst : noReset (s.trace.take 1) = true) (items : s.trace = .event ew inputs :: rest) (ticks : EventWord.t ew = true)
    (lo : s.tickLo = 9#4) (hi : s.tickHi = 9#4) (mode : s.params.ovfMode = .fault) (clear : t.performHeld.faultOvf = false) :
    t.windowClosed = true ∧
      t.speed.toNat =
        s.performHeld.pulseCount.toNat + (if EventWord.e ew && inputs.order.edgeBeforeTick then 1 else 0) ∧
      t.performHeld.pulseCount.toNat = if EventWord.e ew && !inputs.order.edgeBeforeTick then 1 else 0 := by
  rcases step_effect h noRst with ⟨_, _, _, items', -, noRstBit, effect⟩ | ⟨_, _, items', adjacent, -⟩ <;>
    cases items.symm.trans items'
  · have performs : ∀ x, performedBy x (decode ew) = Stimulus.performs x (.event ew inputs) :=
      fun x => performedBy_decode noRstBit x inputs
    obtain ⟨speed, window⟩ := performHeld_speed_windowClosed t
    obtain ⟨-, lo', hi', -⟩ := sameBut_fields (performHeld_sameBut s)
    have closed := effect.window.mpr ⟨by simp [performs, Stimulus.performs, noRstBit, ticks], lo'.trans lo, hi'.trans hi⟩
    obtain ⟨-, -, -, -, counted⟩ := effect.closes closed
    have counts := counted ((performHeld_trace_params s).2 ▸ mode) clear
    rw [speed, performs] at counts
    exact ⟨window ▸ closed, by simpa [Stimulus.performs, noRstBit] using counts⟩
  · cases adjacent

/-! ### A `TICK` alone (rules R120 and R121) -/

theorem exec_tick_of_inRange {s : State} (h : s.tickLo.toNat ≤ 9 ∧ s.tickHi.toNat ≤ 9) : exec .tick s = .next s.tick :=
  tickStep_of_inRange s h

/-! ### A `CAR` among the members (rules R102 and R131) -/

/-- The `CAR` may be left out of the members and the carrier toggled at their end. -/
theorem performAll_erase_car {ops : List Trigger} (member : Trigger.car ∈ ops) (s : State) :
    performAll ops s = carrierToggled (performAll (ops.erase .car) s) := by
  induction ops generalizing s with
  | nil => cases member
  | cons x xs ih =>
    by_cases isCar : x = .car
    · subst isCar
      rw [List.erase_cons_head]
      exact performAll_toggleCarrier xs s
    · have later : Trigger.car ∈ xs := (List.mem_cons.mp member).resolve_left (Ne.symm isCar)
      rw [List.erase_cons_tail (by simpa using isCar)]
      simp only [performAll]
      cases perform x s with
      | next u => exact ih later u
      | fault r | refused r => rfl

theorem hold_erase_car {ops : List Trigger} (member : Trigger.car ∈ ops) (s : State) :
    s.hold ops = { s.hold (ops.erase .car) with heldCar := true } := by
  have edge : Trigger.edge ∈ ops.erase .car ↔ Trigger.edge ∈ ops := List.mem_erase_of_ne (by decide)
  simp [State.hold, State.setHeldCar, State.setHeldEdge, member, edge]

/-- A `CAR` before the `TICK` may as well come before all members. -/
theorem simultaneous_of_car_throughTick {ms ns : List Trigger} {s : State}
    (member : Trigger.car ∈ throughTick (s.inputs.order.restrictedTo ms))
    (through : (throughTick (s.inputs.order.restrictedTo ms)).erase .car = throughTick (s.inputs.order.restrictedTo ns))
    (after : afterTick (s.inputs.order.restrictedTo ms) = afterTick (s.inputs.order.restrictedTo ns)) :
    simultaneous ms s = simultaneous ns s.toggleCarrier := by
  have moved := performAll_erase_car member (s.outWindowClosed false)
  rw [through, ← performAll_toggleCarrier] at moved
  simp only [simultaneous, moved, after]
  rfl

/-- A `CAR` after the `TICK` waits where the `REPORT` holds it, and is otherwise performed on what the other members leave. -/
theorem simultaneous_of_car_afterTick {ms ns : List Trigger} {s t : State}
    (through : throughTick (s.inputs.order.restrictedTo ms) = throughTick (s.inputs.order.restrictedTo ns))
    (member : Trigger.car ∈ afterTick (s.inputs.order.restrictedTo ms))
    (after : (afterTick (s.inputs.order.restrictedTo ms)).erase .car = afterTick (s.inputs.order.restrictedTo ns))
    (noTick : Trigger.tick ∉ afterTick (s.inputs.order.restrictedTo ns)) (h : simultaneous ns s = .next t) :
    simultaneous ms s = .next (if t.reportHolds = true then { t with heldCar := true } else t.toggleCarrier) := by
  simp only [simultaneous, through] at h ⊢
  cases first : performAll (throughTick (s.inputs.order.restrictedTo ns)) (s.outWindowClosed false) with
  | fault r | refused r => simp [first] at h
  | next u =>
    simp only [first] at h ⊢
    cases holds : u.reportHolds with
    | true =>
      simp only [holds, if_true, Host.Outcome.next.injEq] at h ⊢
      have holds' : t.reportHolds = true := h ▸ holds
      rw [if_pos holds', hold_erase_car member, after, h]
    | false =>
      simp only [holds, Bool.false_eq_true, if_false] at h ⊢
      have holds' : t.reportHolds = false := (reportHolds_of_sameBut (performAll_sameBut noTick h)).trans holds
      rw [performAll_erase_car member, after, h, carrierToggled, if_neg (by simp [holds'])]

/-- Where the `CAR` stands in the two forms that hold it beside a `TICK`: the form without it has the same members otherwise, in the same
order. -/
theorem erase_car_around_tick (o : Order) {i j : Instr} (pair : (i, j) ∈ [(Instr.tick, Instr.simCT), (.simET, .simCET)]) :
    if o.carBeforeTick then
      Trigger.car ∈ throughTick (o.restrictedTo (membersOf j)) ∧
        (throughTick (o.restrictedTo (membersOf j))).erase .car = throughTick (o.restrictedTo (membersOf i)) ∧
        afterTick (o.restrictedTo (membersOf j)) = afterTick (o.restrictedTo (membersOf i))
    else
      throughTick (o.restrictedTo (membersOf j)) = throughTick (o.restrictedTo (membersOf i)) ∧
        Trigger.car ∈ afterTick (o.restrictedTo (membersOf j)) ∧
        (afterTick (o.restrictedTo (membersOf j))).erase .car = afterTick (o.restrictedTo (membersOf i)) := by
  simp only [List.mem_cons, List.not_mem_nil, or_false, Prod.mk.injEq] at pair
  rcases pair with ⟨rfl, rfl⟩ | ⟨rfl, rfl⟩ <;> cases o <;> decide

/-- `SIM.CT` and `SIM.CET` are `TICK` and `SIM.ET` with the carrier toggled, or with the `CAR` waiting where it comes after a `TICK` whose
`REPORT` holds it (log entry 18). -/
theorem exec_with_car {i j : Instr} (pair : (i, j) ∈ [(Instr.tick, Instr.simCT), (.simET, .simCET)]) {s t : State}
    (h : exec i s = .next t) :
    exec j s = .next
      (if t.reportHolds = true ∧ s.inputs.order.carBeforeTick = false then { t with heldCar := true } else t.toggleCarrier) := by
  obtain ⟨notRst, notRst'⟩ : i ≠ .rst ∧ j ≠ .rst := by
    simp only [List.mem_cons, List.not_mem_nil, or_false, Prod.mk.injEq] at pair
    rcases pair with ⟨rfl, rfl⟩ | ⟨rfl, rfl⟩ <;> decide
  have place := erase_car_around_tick s.inputs.order pair
  cases before : s.inputs.order.carBeforeTick with
  | true =>
    rw [before, if_pos rfl] at place
    obtain ⟨member, through, after⟩ := place
    rw [exec_eq_simultaneous notRst', simultaneous_of_car_throughTick member through after, ← exec_eq_simultaneous notRst,
      exec_toggleCarrier notRst, h]
    simp [carrierToggled]
  | false =>
    rw [before, if_neg Bool.false_ne_true] at place
    obtain ⟨through, member, after⟩ := place
    rw [exec_eq_simultaneous notRst] at h
    rw [exec_eq_simultaneous notRst', simultaneous_of_car_afterTick through member after (tick_notMem_afterTick _ i) h]
    simp

/-- The same with the carrier's level named: without a `CAR` the carrier is the one before the operation. -/
theorem exec_with_car_level {i j : Instr} (pair : (i, j) ∈ [(Instr.tick, Instr.simCT), (.simET, .simCET)]) {s : State}
    (inRange : s.tickLo.toNat ≤ 9 ∧ s.tickHi.toNat ≤ 9) :
    ∃ t, exec i s = .next t ∧
      exec j s = .next
        (if t.reportHolds = true ∧ s.inputs.order.carBeforeTick = false then { t with heldCar := true }
        else { t with carrierOut := s.carrierOut ^^^ 1#1 }) := by
  obtain ⟨t, done⟩ := exec_completes i ((ticksInRange_iff s).mpr inRange)
  obtain ⟨notRst, noCar⟩ : i ≠ .rst ∧ performedBy .car i = false := by
    simp only [List.mem_cons, List.not_mem_nil, or_false, Prod.mk.injEq] at pair
    rcases pair with ⟨rfl, rfl⟩ | ⟨rfl, rfl⟩ <;> decide
  refine ⟨t, done, (exec_with_car pair done).trans ?_⟩
  rw [← (exec_carrier_of_withoutCar done notRst noCar).1]
  rfl

theorem exec_simCE_eq (s : State) : exec .simCE s = exec .edge s.toggleCarrier := by
  have members : ∀ o : Order, Trigger.car ∈ o.restrictedTo (membersOf .simCE) ∧
      (o.restrictedTo (membersOf .simCE)).erase .car = [.edge] := by
    intro o
    cases o <;> decide
  obtain ⟨member, others⟩ := members s.inputs.order
  rw [exec_without_tick (by decide) (by decide), performAll_erase_car member, others, exec_toggleCarrier (by decide)]
  rfl

/-! ### `EDGE` beside `TICK` (rules R57, R130 and R131) -/

theorem exec_simET_of_edgeFirst {s : State} (first : s.inputs.order.edgeBeforeTick = true) :
    exec .simET s = tickStep (s.outWindowClosed false).countPulse := by
  have order : s.inputs.order.restrictedTo [.edge, .tick] = [.edge, .tick] := by
    simp [(restrictedTo_cases s.inputs.order).2.2.1, first]
  simp only [exec, execSimET, simultaneous, order, throughTick, afterTick, performAll, perform, hold_nil, ite_self]
  cases tickStep (s.outWindowClosed false).countPulse <;> rfl

theorem exec_simET_of_tickFirst {s : State} (last : s.inputs.order.edgeBeforeTick = false)
    (inRange : s.tickLo.toNat ≤ 9 ∧ s.tickHi.toNat ≤ 9) :
    exec .simET s = .next (if s.tick.reportHolds = true then { s.tick with heldEdge := true } else s.tick.countPulse) := by
  have order : s.inputs.order.restrictedTo [.edge, .tick] = [.tick, .edge] := by
    simp [(restrictedTo_cases s.inputs.order).2.2.1, last]
  have held : s.tick.hold [.edge] = { s.tick with heldEdge := true } := by
    simp [State.hold, State.setHeldCar, State.setHeldEdge]
  simp only [exec, execSimET, simultaneous, order, throughTick, afterTick, performAll, perform, tickStep_outWindowClosed,
    tickStep_of_inRange s inRange, held]
  split <;> rfl

/-- A `TICK` that closes no window writes the counters and the output, with values that depend on the counters alone. -/
theorem tick_of_noClose {s : State} (goesOn : ¬(s.tickLo + 1#4 = 10#4 ∧ s.tickHi + 1#4 = 10#4)) :
    ∃ lo hi, ∀ v : State, v.tickLo = s.tickLo → v.tickHi = s.tickHi →
      v.tick = ((v.setTickLo lo).setTickHi hi).setWindowClosed false := by
  by_cases carry : s.tickLo + 1#4 = 10#4
  · refine ⟨0#4, s.tickHi + 1#4, fun v lo hi => ?_⟩
    rw [← lo, ← hi] at goesOn
    rw [← lo] at carry
    rw [tick_of_carry v carry (not_and.mp goesOn carry), hi]
  · refine ⟨s.tickLo + 1#4, s.tickHi, fun v lo hi => ?_⟩
    rw [← lo] at carry
    rw [tick_of_lo v carry, ← lo, ← hi]
    rfl

theorem tick_countPulse_of_noClose {s : State} (goesOn : ¬(s.tickLo + 1#4 = 10#4 ∧ s.tickHi + 1#4 = 10#4)) :
    s.countPulse.tick = s.tick.countPulse := by
  obtain ⟨lo, hi, ticks⟩ := tick_of_noClose goesOn
  obtain ⟨-, sameLo, sameHi, -⟩ := sameBut_fields (countPulse_sameBut s)
  rw [ticks s rfl rfl, ticks s.countPulse sameLo sameHi]
  exact (countPulse_comm (f := fun v => ((v.setTickLo lo).setTickHi hi).setWindowClosed false) ⟨rfl, rfl⟩ (fun _ => rfl) rfl).symm

/-- `EDGE` and `TICK` in either order complete where the counters are in range. -/
theorem performAll_edge_tick {s : State} (inRange : s.tickLo.toNat ≤ 9 ∧ s.tickHi.toNat ≤ 9) :
    performAll [.edge, .tick] s = .next s.countPulse.tick ∧ performAll [.tick, .edge] s = .next s.tick.countPulse := by
  have inRange' : s.countPulse.tickLo.toNat ≤ 9 ∧ s.countPulse.tickHi.toNat ≤ 9 := by
    rwa [← ticksInRange_iff, countPulse_ticksInRange, ticksInRange_iff]
  simp only [performAll, perform, tickStep_of_inRange s inRange, tickStep_of_inRange _ inRange', and_self]

/-- At the window's end an `EDGE` before the `TICK` is captured and one after it is left in the counter. -/
theorem tick_countPulse_of_close {s : State} (lo : s.tickLo = 9#4) (hi : s.tickHi = 9#4) :
    s.countPulse.tick.pulseCount = 0#16 ∧ s.tick.countPulse.pulseCount = 1#16 := by
  have cleared : ∀ v : State, v.tickLo = 9#4 → v.tickHi = 9#4 → v.tick.pulseCount = 0#16 := by
    intro v lo hi
    have effect := tick_effect (tickStep_of_inRange v (by simp [lo, hi]))
    obtain ⟨-, -, -, count, -⟩ := effect.closes (effect.window.mpr ⟨lo, hi⟩)
    exact count
  obtain ⟨-, sameLo, sameHi, -⟩ := sameBut_fields (countPulse_sameBut s)
  refine ⟨cleared _ (sameLo.trans lo) (sameHi.trans hi), ?_⟩
  have zero := cleared s lo hi
  rw [(countPulse_of_below (by simp [zero])).1, State.setPulseCount_pulseCount, zero]
  rfl

/-! ### The orders of a step (rule R130) -/

/-- All orders of the three triggers. -/
def Order.all : List Order :=
  [.cet, .cte, .ect, .etc, .tce, .tec]

theorem Order.mem_all (o : Order) : o ∈ Order.all := by
  cases o <;> decide

/-- For each form, the sequences of the six orders are the permutations of its members. -/
theorem restrictedTo_all_permutations :
    ∀ members ∈ [[Trigger.car, .edge], [.car, .tick], [.edge, .tick], [.car, .edge, .tick]],
      Order.all.map (·.restrictedTo members) ⊆ members.permutations' ∧
        members.permutations' ⊆ Order.all.map (·.restrictedTo members) := by
  decide

end Sys2Proof.Machine

open Sys2Proof Sys2Proof.Machine

/-- Settles O41. Every `TICK` of a run is in a window it closes or in the position it ends at; with the counters in range this fixes all
three numbers. -/
theorem tickPositionLaw : Obligations.TickPositionLaw :=
  fun _ s _ lo hi => run_position ((ticksInRange_iff s).mpr ⟨lo, hi⟩)

/-- Settles O44. The run up to its last step closes no window, since its `TICK`s add up to less than one, so that the counting law gives
the count the last step finds; the counts are those with the members that wait performed (log entry 18). -/
theorem windowReportsItsEdges : Obligations.WindowReportsItsEdges := by
  intro k s t ew inputs noRst mode lo hi item ticks position h clear
  obtain ⟨u, before, left, last⟩ := run_succ_last h
  have items : u.trace = .event ew inputs :: s.trace.drop (k + 1) := by
    rw [left, List.drop_eq_getElem?_toList_append, item]
    rfl
  rw [List.take_add, ← left, noReset_append, Bool.and_eq_true] at noRst
  obtain ⟨noRstBefore, noRstLast⟩ := noRst
  obtain ⟨lo9, hi9, noWindow⟩ := tickPositionLaw k s u lo hi noRstBefore before
  rw [position] at lo9 hi9 noWindow
  have clearBefore : u.performHeld.faultOvf = false := by
    rw [Bool.eq_false_iff]
    intro recorded
    simp [step_settled_faultOvf_sticky last noRstLast recorded] at clear
  obtain ⟨count, -⟩ := pulseCountingLaw k s u noRstBefore mode before clearBefore noWindow
  rw [← count]
  exact step_closes last noRstLast items ticks (BitVec.eq_of_toNat_eq lo9) (BitVec.eq_of_toNat_eq hi9)
    ((run_params before).symm ▸ mode) clear

/-- Settles O15. A `TICK` that finishes no decade, and one that finishes a decade but no window. -/
theorem tickAdvancesTheCascade : Obligations.TickAdvancesTheCascade := by
  refine ⟨rfl, fun s lo hi => ?_⟩
  rw [exec_tick_of_inRange ⟨lo, hi⟩]
  refine ⟨fun below => ?_, fun last below => ?_⟩
  · rw [tick_of_lo s (by bv_omega)]
    rfl
  · rw [tick_of_carry s (by bv_omega) (by bv_omega)]
    rfl

/-- Settles O16. How many bytes of the packet are sent within the step is an input (log entry 4), and the others wait (log entry 10). -/
theorem tickClosesTheWindowAndCaptures : Obligations.TickClosesTheWindowAndCaptures := by
  intro s lo hi
  rw [exec_tick_of_inRange (by simp [lo, hi]), tick_of_close s (by rw [lo]; rfl) (by rw [hi]; rfl), report_eq]
  rfl

/-- Settles O18. Wherever the `CAR` stands, the form is the `EDGE` on the state with the carrier toggled. -/
theorem simCEIsCarAndEdge : Obligations.SimCEIsCarAndEdge := by
  intro s
  refine ⟨exec_simCE_eq s, ⟨_, exec_simCE_eq s⟩, fun below => ?_⟩
  obtain ⟨-, counts⟩ := edgeAddsOneBelowTheMaximum
  exact (exec_simCE_eq s).trans (counts s.toggleCarrier below).1

/-- Settles O19. That a `CAR` can wait for the `REPORT` is the model's choice (log entry 18). -/
theorem simCTIsCarAndTick : Obligations.SimCTIsCarAndTick :=
  fun _ lo hi => exec_with_car_level (by simp) ⟨lo, hi⟩

/-- Settles O20. An `EDGE` alone clears the output, which one after the `TICK` of its own step does not; that it can wait for the `REPORT`
is the model's choice (log entry 18). -/
theorem simETIsEdgeAndTickInTheChosenOrder : Obligations.SimETIsEdgeAndTickInTheChosenOrder := by
  intro s lo hi
  refine ⟨fun first => ?_, fun last => ?_⟩
  · obtain ⟨t, done⟩ := exec_completes .simET ((ticksInRange_iff s).mpr ⟨lo, hi⟩)
    exact ⟨_, t, rfl, (exec_simET_of_edgeFirst first).symm.trans done, done⟩
  · refine ⟨s.tick, _, exec_tick_of_inRange ⟨lo, hi⟩, rfl, ?_⟩
    have restored : { (s.tick.outWindowClosed false).countPulse with windowClosed := s.tick.windowClosed } = s.tick.countPulse :=
      (countPulse_outWindowClosed s.tick.windowClosed (s.tick.outWindowClosed false)).symm
    rw [exec_simET_of_tickFirst last ⟨lo, hi⟩, restored]

/-- Settles O21, as for `SIM.CT`: the `EDGE` keeps its place when the `CAR` is left out, so whether the `REPORT` holds anything is the same
(log entry 18). -/
theorem simCETIsSimETWithTheCarrierToggled : Obligations.SimCETIsSimETWithTheCarrierToggled :=
  fun _ lo hi => exec_with_car_level (by simp) ⟨lo, hi⟩

/-- Settles O22. Both sides are finite lists, the sequences of the six orders and the permutations of the form's members. -/
theorem everyOrderOfTheMembersIsAdmitted : Obligations.EveryOrderOfTheMembersIsAdmitted := by
  intro members form l
  obtain ⟨sound, complete⟩ := restrictedTo_all_permutations members form
  rw [← List.mem_permutations']
  constructor
  · rintro ⟨o, rfl⟩
    exact sound (List.mem_map_of_mem o.mem_all)
  · intro permuted
    obtain ⟨o, -, same⟩ := List.mem_map.mp (complete permuted)
    exact ⟨o, same⟩

/-- Settles O24. Off the window's end a `TICK` leaves the count alone; at its end the count is 0 after `EDGE` then `TICK` and 1 after
`TICK` then `EDGE`. -/
theorem edgeAndTickCommuteExactlyOffTheWindowEnd : Obligations.EdgeAndTickCommuteExactlyOffTheWindowEnd := by
  intro s lo hi
  obtain ⟨edgeFirst, tickFirst⟩ := performAll_edge_tick ⟨lo, hi⟩
  rw [edgeFirst, tickFirst, Host.Outcome.next.injEq]
  constructor
  · rintro same ⟨lo9, hi9⟩
    obtain ⟨captured, counted⟩ := tick_countPulse_of_close lo9 hi9
    rw [same, counted] at captured
    cases captured
  · intro goesOn
    exact tick_countPulse_of_noClose (by bv_omega)

/-- Settles O11, by evaluation: `NOP` is the write of the output (rule R129). -/
theorem nopOnlyClearsTheOutput : Obligations.NopOnlyClearsTheOutput :=
  ⟨rfl, fun _ => rfl⟩

end

section
/-! The adjacent layer: the serial channel behind a `REPORT` (rules R142 and R143), the command parser and its main loop (rules R144 to
R151), and that the block learns nothing from any of it (rule R153). -/

namespace Sys2Proof.Machine

/-! ### A run whose channel is ready (rules R142 and R170) -/

theorem deliver_adjacent_completes {x : Stimulus} (adjacent : x.ofBlock = false) (s : State) : ∃ t, deliver x s = .next t := by
  cases x with
  | event ew inputs => cases adjacent
  | txEmpty | rxByte _ | mainLoop => exact ⟨_, rfl⟩

/-- An item is never refused where the counters are in range, nor excluded where no `REPORT` runs. -/
theorem deliver_completes {s : State} (inRange : s.ticksInRange = true) (idle : s.reportRuns = false) (x : Stimulus) :
    ∃ t, deliver x s = .next t := by
  rcases ofBlock_cases x with adjacent | ⟨ew, inputs, rfl⟩
  · exact deliver_adjacent_completes adjacent s
  · simp only [deliver, deliverEvent, reportExcludes_of_idle idle, Bool.false_eq_true, if_false]
    exact exec_completes (decode ew) (s := s.setInputs inputs) inRange

theorem packet_length (speed : Pulse) (x : Sensors) : (packet speed x).length = Config.packetBytes :=
  rfl

/-- An operation whose channel is ready for a whole packet finishes its `REPORT` within the step, so that no member waits for it. -/
theorem exec_idle_of_ready {i : Instr} {s t : State} (idle : s.reportRuns = false)
    (ready : Config.packetBytes ≤ s.inputs.txReady) (h : exec i s = .next t) : t.reportRuns = false := by
  by_cases isRst : i = .rst
  · subst isRst
    exact exec_rst_idle h
  · obtain ⟨nothing, free⟩ := (reportRuns_iff s).mp idle
    have sent : t.txPending = [] := by
      obtain ⟨-, ⟨-, -, pending⟩ | ⟨-, -, pending⟩⟩ := exec_stream isRst h
      · exact pending.trans nothing
      · rw [pending, nothing, List.nil_append, List.drop_eq_nil_iff, packet_length]
        exact ready
    have loose : t.reportHolds = false := by simp [State.reportHolds, sent]
    obtain ⟨car, edge⟩ := operation_holds isRst free h
    simp only [loose, Bool.false_eq_true, and_false, iff_false, Bool.not_eq_true] at car edge
    exact (reportRuns_iff t).mpr ⟨sent, car, edge⟩

theorem deliver_adjacent_idle {x : Stimulus} (adjacent : x.ofBlock = false) {s t : State} (idle : s.reportRuns = false)
    (h : deliver x s = .next t) : t.reportRuns = false := by
  obtain ⟨nothing, free⟩ := (reportRuns_iff s).mp idle
  have sent : t.txPending = [] := by simpa [nothing] using (deliver_adjacentEffect adjacent h).waiting
  rcases deliver_adjacent_held adjacent h with free' | ⟨car, edge, -⟩
  · exact (reportRuns_iff t).mpr ⟨sent, free'⟩
  · exact (reportRuns_iff t).mpr ⟨sent, car.trans free.1, edge.trans free.2⟩

theorem deliver_idle_of_ready {x : Stimulus} {s t : State} (idle : s.reportRuns = false) (ready : x.channelReady = true)
    (h : deliver x s = .next t) : t.reportRuns = false := by
  rcases ofBlock_cases x with adjacent | ⟨ew, inputs, rfl⟩
  · exact deliver_adjacent_idle adjacent idle h
  · exact exec_idle_of_ready (s := s.setInputs inputs) idle (of_decide_eq_true ready) (deliverEvent_next h).2

/-- A step whose item finds the channel ready is taken, and leaves the machine as ready for the next item as it was. -/
theorem step_of_ready {s : State} {x : Stimulus} {rest : List Stimulus} (inRange : s.ticksInRange = true)
    (idle : s.reportRuns = false) (items : s.trace = x :: rest) (ready : x.channelReady = true) :
    ∃ t, step s = .next t ∧ t.trace = rest ∧ t.ticksInRange = true ∧ t.reportRuns = false := by
  obtain ⟨t, done⟩ := deliver_completes (s := s.setTrace rest) inRange idle x
  have taken : step s = .next t := by simpa only [step, items] using done
  obtain ⟨⟨y, left⟩, -⟩ := step_trace_params taken
  exact ⟨t, taken, (List.cons.inj (left.symm.trans items)).2, step_ticksInRange taken inRange,
    deliver_idle_of_ready (s := s.setTrace rest) idle ready done⟩

theorem run_of_ready {k : Nat} {s : State} (inRange : s.ticksInRange = true) (idle : s.reportRuns = false)
    (items : k ≤ s.trace.length) (ready : (s.trace.take k).all Stimulus.channelReady = true) :
    ∃ t, run k s = .next t ∧ t.reportRuns = false := by
  induction k generalizing s with
  | zero => exact ⟨s, rfl, idle⟩
  | succ k ih =>
    cases trace : s.trace with
    | nil => simp [trace] at items
    | cons x rest =>
      rw [trace, List.take_succ_cons, List.all_cons, Bool.and_eq_true] at ready
      obtain ⟨readyFirst, readyOthers⟩ := ready
      obtain ⟨u, first, left, inRange', idle'⟩ := step_of_ready inRange idle trace readyFirst
      rw [trace, List.length_cons, Nat.succ_le_succ_iff] at items
      rw [← left] at items readyOthers
      simpa only [run, first] using ih inRange' idle' items readyOthers

/-! ### One packet per window (rule R143) -/

/-- The outbound bytes, oldest first: those sent and those of a running `REPORT` (rules R39 and R142). -/
def State.outbound (s : State) : List Byte :=
  s.txSent ++ s.txPending

theorem performHeld_outbound (s : State) : s.performHeld.outbound = s.outbound := by
  obtain ⟨-, -, -, -, -, -, -, -, -, -, -, sent, pending, -⟩ := sameBut_fields (performHeld_sameBut s)
  rw [State.outbound, sent, pending]
  rfl

/-- The members of an operation add one packet where they close a window, sent or waiting, and nothing elsewhere. -/
theorem OperationEffect.outbound {i : Instr} {s t : State} (effect : OperationEffect i s t) :
    t.outbound = s.outbound ++ if t.windowClosed then packet t.speed s.inputs.sensors else [] := by
  simp only [State.outbound]
  cases window : t.windowClosed with
  | false =>
    obtain ⟨-, sent, pending, -⟩ := effect.goesOn window
    simp [sent, pending]
  | true =>
    obtain ⟨-, -, sent, pending, -⟩ := effect.closes window
    simp [sent, pending]

theorem step_outbound_length {s t : State} (h : step s = .next t) (noRst : noReset (s.trace.take 1) = true) :
    t.outbound.length = s.outbound.length + 6 * if s.closesInto t then 1 else 0 := by
  rcases step_effect h noRst with ⟨ew, inputs, rest, items, -, -, effect⟩ | ⟨x, rest, items, adjacent, -, -, -, stream, -⟩
  · have added := congrArg List.length effect.outbound
    rw [performHeld_outbound, (performHeld_speed_windowClosed t).2, List.length_append] at added
    rw [closesInto_of_cons items, Stimulus.ofBlock, Bool.true_and, added, ← performHeld_outbound s]
    cases t.windowClosed <;> rfl
  · rw [closesInto_of_cons items, adjacent, State.outbound, stream]
    rfl

theorem run_outbound_length {k : Nat} {s t : State} (noRst : noReset (s.trace.take k) = true) (h : run k s = .next t) :
    t.outbound.length = s.outbound.length + 6 * windowsIn k s := by
  induction k generalizing s with
  | zero =>
    cases h
    rfl
  | succ k ih =>
    obtain ⟨u, first, others⟩ := run_succ_next h
    obtain ⟨noRstFirst, noRstOthers⟩ := noReset_take_succ first noRst
    rw [ih noRstOthers others, step_outbound_length first noRstFirst]
    simp only [windowsIn, first]
    omega

/-! ### The waiting bytes of a `REPORT` (rules R140 and R142) -/

theorem performHeld_performHeld (s : State) : s.performHeld.performHeld = s.performHeld :=
  performHeld_of_nothingHeld (performHeld_nothingHeld s)

theorem performHeld_serialTxTimes (n : Nat) (s : State) : (s.serialTxTimes n).performHeld = s.performHeld.serialTxTimes n := by
  induction n generalizing s with
  | zero => rfl
  | succ n ih => simp only [State.serialTxTimes, ih, performHeld_serialTx]

/-- One formula for both cases of a `SerialTx` that returns. -/
theorem serialTx_eq (s : State) :
    s.serialTx = (s.setTxSent (s.txSent ++ s.txPending.take 1)).setTxPending (s.txPending.drop 1) :=
  serialTxTimes_eq 1 s

theorem performHeld_txPending (s : State) : s.performHeld.txPending = s.txPending := by
  obtain ⟨-, -, -, -, -, -, -, -, -, -, -, -, pending, -⟩ := sameBut_fields (performHeld_sameBut s)
  exact pending

/-- The return of a `SerialTx`, by whether it is the last that waits. -/
theorem serialTxReturns_eq (s : State) :
    s.serialTxReturns = if 1 < s.txPending.length then s.serialTx else s.serialTx.performHeld := by
  have last : s.serialTx.txPending.isEmpty = true ↔ ¬1 < s.txPending.length := by
    rw [serialTx_eq, State.setTxPending_txPending, List.isEmpty_iff, List.drop_eq_nil_iff, Nat.not_lt]
  simp only [State.serialTxReturns, last, ite_not]

/-- The state after `k` items that each let one waiting `SerialTx` return, but for the members that wait for the last of them. -/
def State.afterReturns (k : Nat) (s : State) : State :=
  (s.serialTxTimes k).setTrace (s.trace.drop k)

theorem afterReturns_eq (k : Nat) (s : State) :
    s.afterReturns k =
      { s with
        txSent := s.txSent ++ s.txPending.take k, txPending := s.txPending.drop k, trace := s.trace.drop k } := by
  rw [State.afterReturns, serialTxTimes_eq]
  rfl

theorem performHeld_afterReturns (k : Nat) (s : State) : (s.afterReturns k).performHeld = s.performHeld.afterReturns k := by
  simp only [State.afterReturns, performHeld_setTrace, performHeld_serialTxTimes, (performHeld_trace_params s).1]

theorem afterReturns_succ {s : State} {x : Stimulus} {rest : List Stimulus} (items : s.trace = x :: rest) (k : Nat) :
    s.afterReturns (k + 1) = (s.setTrace rest).serialTx.afterReturns k := by
  rw [afterReturns_eq, afterReturns_eq, serialTx_eq]
  cases pending : s.txPending <;> simp [pending, items, State.setTrace, State.setTxPending, State.setTxSent]

theorem step_txEmpty {s : State} {rest : List Stimulus} (items : s.trace = .txEmpty :: rest) :
    step s =
      .next (if 1 < s.txPending.length then (s.setTrace rest).serialTx else (s.setTrace rest).serialTx.performHeld) := by
  simp only [step, items, deliver]
  exact congrArg _ (serialTxReturns_eq (s.setTrace rest))

theorem run_txEmpty {k : Nat} {s : State} (items : s.trace.take k = List.replicate k .txEmpty) :
    run k s = .next (if k = 0 ∨ k < s.txPending.length then s.afterReturns k else (s.afterReturns k).performHeld) := by
  induction k generalizing s with
  | zero => rfl
  | succ k ih =>
    obtain ⟨rest, trace⟩ : ∃ rest, s.trace = .txEmpty :: rest := by
      cases trace : s.trace <;> simp_all [List.replicate_succ]
    have later : rest.take k = List.replicate k .txEmpty := by
      simpa [trace, List.replicate_succ] using items
    have pending : (s.setTrace rest).serialTx.txPending.length = s.txPending.length - 1 := by
      simp [serialTx_eq]
    have left : (s.setTrace rest).serialTx.trace = rest := by
      simp [serialTx_eq]
    simp only [run, step_txEmpty trace, afterReturns_succ trace]
    by_cases more : 1 < s.txPending.length
    · have goesOn : k = 0 ∨ k < s.txPending.length - 1 ↔ k + 1 = 0 ∨ k + 1 < s.txPending.length := by omega
      rw [if_pos more, ih (left.symm ▸ later), pending]
      simp only [goesOn]
    · rw [if_neg more, ih, ← performHeld_afterReturns, performHeld_performHeld, ite_self, if_neg (by omega)]
      rwa [(performHeld_trace_params _).1, left]

/-! ### The parser and the main loop (rules R144 to R151) -/

theorem step_mainLoop {s : State} {rest : List Stimulus} (items : s.trace = .mainLoop :: rest) :
    step s = .next (s.setTrace rest).mainLoop := by
  simp only [step, items, deliver]

theorem mainLoop_of_byte {s : State} {b : Byte} {bs : List Byte} (idle : s.reportRuns = false) (queue : s.rxQueue = b :: bs) :
    s.mainLoop = (s.setRxQueue bs).rxByte b := by
  simp [State.mainLoop, idle, queue]

theorem mainLoop_of_waits {s : State} (waits : s.reportRuns = true ∨ s.rxQueue = []) : s.mainLoop = s := by
  rcases mainLoop_cases s with eq | ⟨b, bs, idle, queue, -⟩
  · exact eq
  · simp [idle, queue] at waits

theorem rxByte_of_idle {s : State} (h : s.parser = .idle) (b : Byte) :
    s.rxByte b = { s with parser := if b = 0xDD#8 then .sync1 else .idle } := by
  simp only [State.rxByte, h, Config.cmdMarker]
  exact (apply_ite s.setParser _ _ _).symm

theorem rxByte_of_sync1 {s : State} (h : s.parser = .sync1) (b : Byte) :
    s.rxByte b = { s with parser := if b = 0xDD#8 then .highByte else .idle } := by
  simp only [State.rxByte, h, Config.cmdMarker]
  exact (apply_ite s.setParser _ _ _).symm

theorem rxByte_of_highByte {s : State} (h : s.parser = .highByte) (b : Byte) :
    s.rxByte b = { s with dacH := b, parser := .lowByte } := by
  simp only [State.rxByte, h]
  rfl

theorem rxByte_of_lowByte {s : State} (h : s.parser = .lowByte) (b : Byte) :
    s.rxByte b = { s with dacL := b, parser := .idle } := by
  simp only [State.rxByte, h]
  rfl

theorem rxBytes_append (s : State) (xs ys : List Byte) : s.rxBytes (xs ++ ys) = (s.rxBytes xs).rxBytes ys :=
  List.foldl_append

theorem rxBytes_markers {s : State} (h : s.parser = .idle) : s.rxBytes [0xDD#8, 0xDD#8] = { s with parser := .highByte } := by
  simp only [State.rxBytes, List.foldl_cons, List.foldl_nil, rxByte_of_idle h, if_true]
  exact rxByte_of_sync1 rfl _

/-- A frame writes the setpoint, whatever its two payload bytes are, and leaves the parser where it found it. -/
theorem rxBytes_frame {s : State} (h : s.parser = .idle) (high low : Byte) :
    s.rxBytes [0xDD#8, 0xDD#8, high, low] = { s with dacH := high, dacL := low } := by
  rw [show [0xDD#8, 0xDD#8, high, low] = [0xDD#8, 0xDD#8] ++ [high, low] from rfl, rxBytes_append, rxBytes_markers h]
  simp only [State.rxBytes, List.foldl_cons, List.foldl_nil, rxByte_of_highByte, rxByte_of_lowByte, ← h]

/-- A byte that is no marker brings the parser back to where it was, alone or after one marker (rule R150). -/
theorem rxBytes_malformed {s : State} (h : s.parser = .idle) {b : Byte} (notMarker : b ≠ 0xDD#8) :
    s.rxBytes [b] = s ∧ s.rxBytes [0xDD#8, b] = s := by
  simp only [State.rxBytes, List.foldl_cons, List.foldl_nil, rxByte_of_idle h, rxByte_of_sync1, if_true, if_neg notMarker, ← h, and_self]

theorem rxBytes_junk {s : State} (h : s.parser = .idle) {junk : List (List Byte)}
    (malformed : ∀ g ∈ junk, ∃ b : Byte, b ≠ 0xDD#8 ∧ (g = [b] ∨ g = [0xDD#8, b])) : s.rxBytes junk.flatten = s := by
  induction junk with
  | nil => rfl
  | cons g gs ih =>
    obtain ⟨b, notMarker, shape⟩ := malformed g List.mem_cons_self
    obtain ⟨alone, afterMarker⟩ := rxBytes_malformed h notMarker
    have discarded : s.rxBytes g = s := by
      rcases shape with rfl | rfl
      · exact alone
      · exact afterMarker
    rw [List.flatten_cons, rxBytes_append, discarded]
    exact ih fun g' later => malformed g' (List.mem_cons_of_mem g later)

/-! ### What the block can see (rules R33 and R153) -/

theorem countPulse_sameBlock {s t : State} (same : s.sameBlock t) : s.countPulse.sameBlock t.countPulse := by
  have ⟨carrier, pulse, speed, lo, hi, window, fault, draws, order, params⟩ := same
  by_cases below : s.pulseCount.toNat < 65535
  · rw [(countPulse_of_below below).1, (countPulse_of_below (pulse ▸ below)).1]
    exact ⟨carrier, congrArg (· + 1#16) pulse, speed, lo, hi, window, fault, draws, order, params⟩
  · have full : s.pulseCount = 65535#16 := by bv_omega
    rw [countPulse_of_full full, countPulse_of_full (pulse ▸ full), State.overflowPulse, State.overflowPulse, ← params]
    cases s.params.ovfMode with
    | fault => exact ⟨carrier, congrArg Config.anyPulse draws, speed, lo, hi, window, rfl, congrArg (· + 1) draws, order, params⟩
    | wrap => exact ⟨carrier, rfl, speed, lo, hi, window, fault, draws, order, params⟩
    | saturate => exact same

theorem tick_sameBlock {s t : State} (same : s.sameBlock t) : s.tick.sameBlock t.tick := by
  obtain ⟨carrier, pulse, speed, lo, hi, window, fault, draws, order, params⟩ := same
  by_cases carry : s.tickLo + 1#4 = 10#4
  · by_cases close : s.tickHi + 1#4 = 10#4
    · rw [tick_of_close s carry close, tick_of_close t (lo ▸ carry) (hi ▸ close), report_eq, report_eq]
      exact ⟨carrier, rfl, pulse, rfl, rfl, rfl, fault, draws, order, params⟩
    · rw [tick_of_carry s carry close, tick_of_carry t (lo ▸ carry) (hi ▸ close)]
      exact ⟨carrier, pulse, speed, rfl, congrArg (· + 1#4) hi, rfl, fault, draws, order, params⟩
  · rw [tick_of_lo s carry, tick_of_lo t (lo ▸ carry)]
    exact ⟨carrier, pulse, speed, congrArg (· + 1#4) lo, hi, rfl, fault, draws, order, params⟩

theorem perform_sameBlock {x : Trigger} {s t u v : State} (same : s.sameBlock t) (hs : perform x s = .next u)
    (ht : perform x t = .next v) : u.sameBlock v := by
  cases x with
  | car =>
    cases hs
    cases ht
    obtain ⟨carrier, others⟩ := same
    exact ⟨congrArg (· ^^^ 1#1) carrier, others⟩
  | edge =>
    cases hs
    cases ht
    exact countPulse_sameBlock same
  | tick =>
    obtain ⟨-, rfl⟩ := tickStep_next hs
    obtain ⟨-, rfl⟩ := tickStep_next ht
    exact tick_sameBlock same

theorem performAll_sameBlock {ops : List Trigger} {s t u v : State} (same : s.sameBlock t) (hs : performAll ops s = .next u)
    (ht : performAll ops t = .next v) : u.sameBlock v := by
  induction ops generalizing s t with
  | nil =>
    cases hs
    cases ht
    exact same
  | cons x xs ih =>
    obtain ⟨s', firstS, othersS⟩ := performAll_cons_next hs
    obtain ⟨t', firstT, othersT⟩ := performAll_cons_next ht
    exact ih (perform_sameBlock same firstS firstT) othersS othersT

theorem exec_rst_sameBlock {s t u v : State} (same : s.sameBlock t) (hs : exec .rst s = .next u) (ht : exec .rst t = .next v) :
    u.performHeld.sameBlock v.performHeld := by
  obtain ⟨-, -, -, -, -, -, fault, draws, order, params⟩ := same
  rw [performHeld_of_nothingHeld ((reportRuns_iff u).mp (exec_rst_idle hs)).2,
    performHeld_of_nothingHeld ((reportRuns_iff v).mp (exec_rst_idle ht)).2]
  cases hs
  cases ht
  exact ⟨congrArg Params.carrierInit params, rfl, congrArg Params.speedInit params, rfl, rfl, rfl, fault, draws, order, params⟩

/-- What an operation that completes has done to the block, once the members that wait are performed, depends on the block alone. -/
theorem exec_sameBlock {i : Instr} {s t u v : State} (freeS : s.nothingHeld) (freeT : t.nothingHeld) (same : s.sameBlock t)
    (hs : exec i s = .next u) (ht : exec i t = .next v) : u.performHeld.sameBlock v.performHeld := by
  by_cases isRst : i = .rst
  · subst isRst
    exact exec_rst_sameBlock same hs ht
  · have ⟨carrier, pulse, speed, lo, hi, window, fault, draws, order, params⟩ := same
    have cleared : (s.outWindowClosed false).sameBlock (t.outWindowClosed false) :=
      ⟨carrier, pulse, speed, lo, hi, rfl, fault, draws, order, params⟩
    exact performAll_sameBlock cleared (exec_performs isRst freeS hs) (order ▸ exec_performs isRst freeT ht)

/-- Whether an operation completes depends on the block alone: it never faults, and refuses for the tick counters alone. -/
theorem exec_sameOutcome {i : Instr} {s t : State} (freeS : s.nothingHeld) (freeT : t.nothingHeld) (same : s.sameBlock t) :
    sameOutcome (exec i s) (exec i t) := by
  have range : s.ticksInRange = t.ticksInRange := by
    obtain ⟨-, -, -, lo, hi, -⟩ := same
    simp only [State.ticksInRange, lo, hi]
  have refuses : exec i s = .refused .tickCounterOutOfRange ↔ exec i t = .refused .tickCounterOutOfRange := by
    rw [exec_refuses_iff, exec_refuses_iff, range]
  cases hs : exec i s with
  | fault r => exact absurd hs (exec_ne_fault i s r)
  | refused r =>
    obtain rfl := exec_refused hs
    rw [refuses.mp hs]
    rfl
  | next u =>
    cases ht : exec i t with
    | fault r => exact absurd ht (exec_ne_fault i t r)
    | refused r =>
      obtain rfl := exec_refused ht
      cases hs.symm.trans (refuses.mpr ht)
    | next v => exact exec_sameBlock freeS freeT same hs ht

/-! ### A step of the adjacent layer leaves the block (rule R153) -/

theorem sameBlock_rfl (s : State) : s.sameBlock s :=
  ⟨rfl, rfl, rfl, rfl, rfl, rfl, rfl, rfl, rfl, rfl⟩

theorem serialTx_sameBlock (s : State) : s.sameBlock s.serialTx := by
  rw [serialTx_eq]
  exact sameBlock_rfl s

/-- The return of a `SerialTx` moves one byte and leaves the block, unless it is the last and a member waits for it (log entry 18). -/
theorem serialTxReturns_sameBlock {s : State} (noneReleased : s.nothingHeld ∨ s.serialTxReturns.txPending ≠ []) :
    s.sameBlock s.serialTxReturns := by
  rw [serialTxReturns_eq] at noneReleased ⊢
  by_cases more : 1 < s.txPending.length
  · rw [if_pos more]
    exact serialTx_sameBlock s
  · rw [if_neg more, performHeld_txPending, serialTx_eq] at noneReleased
    have last : s.txPending.drop 1 = [] := List.drop_eq_nil_iff.mpr (Nat.not_lt.mp more)
    have free : s.nothingHeld := noneReleased.resolve_right fun waits => waits last
    rw [if_neg more, performHeld_serialTx, performHeld_of_nothingHeld free]
    exact serialTx_sameBlock s

theorem deliver_adjacent_sameBlock {x : Stimulus} (adjacent : x.ofBlock = false) {s t : State}
    (noneReleased : x ≠ .txEmpty ∨ s.nothingHeld ∨ t.txPending ≠ []) (h : deliver x s = .next t) : s.sameBlock t := by
  cases x with
  | event ew inputs => cases adjacent
  | txEmpty =>
    cases h
    exact serialTxReturns_sameBlock (noneReleased.resolve_left fun other => other rfl)
  | rxByte b =>
    cases h
    exact sameBlock_rfl s
  | mainLoop =>
    cases h
    rcases mainLoop_cases s with eq | ⟨b, bs, -, -, eq⟩ <;> rw [eq]
    · exact sameBlock_rfl s
    · rw [rxByte_sameBut]
      exact sameBlock_rfl s

theorem noReset_take_one_of_adjacent {x : Stimulus} {xs rest : List Stimulus} (items : xs = x :: rest) (adjacent : x.ofBlock = false) :
    noReset (xs.take 1) = true := by
  rw [items]
  cases x with
  | event ew inputs => cases adjacent
  | txEmpty | rxByte _ | mainLoop => rfl

theorem step_adjacent_settled {s t : State} {x : Stimulus} {rest : List Stimulus} (items : s.trace = x :: rest)
    (adjacent : x.ofBlock = false) (h : step s = .next t) : s.performHeld.sameBlock t.performHeld := by
  rcases step_effect h (noReset_take_one_of_adjacent items adjacent) with ⟨_, _, _, items', -⟩ | ⟨_, _, -, -, -, block, -⟩
  · cases items.symm.trans items'
    cases adjacent
  · exact block

/-- Among the members that wait only an `EDGE` at the maximum sets the fault record (rule R113). -/
theorem performHeld_sets_faultOvf {s : State} (clear : s.faultOvf = false) (recorded : s.performHeld.faultOvf = true) :
    s.params.ovfMode = .fault ∧ s.heldEdge = true ∧ s.pulseCount = 65535#16 := by
  cases held : s.heldEdge with
  | false =>
    obtain ⟨-, fault, -⟩ := (performHeld_values s).2 held
    simp [fault, clear] at recorded
  | true =>
    have counted : s.countPulse.faultOvf = true := by
      simp only [State.performHeld, held, if_true] at recorded
      cases car : s.heldCar <;> simp only [car, if_true, if_false, Bool.false_eq_true, countPulse_toggleCarrier] at recorded <;>
        exact recorded
    rcases perform_faultOvf (x := .edge) (s := s) rfl with same | ⟨-, -, mode, full⟩
    · simp [← same, counted] at clear
    · exact ⟨mode, rfl, full⟩

/-! ### The members that wait for a `REPORT` (rules R130 and R142) -/

theorem reportHolds_iff (s : State) :
    s.reportHolds = true ↔ s.windowClosed = true ∧ s.txPending ≠ [] ∧ s.params.reportBlocks = .all := by
  cases mode : s.params.reportBlocks <;> simp [State.reportHolds, mode]

/-- Each member of an operation is performed once, so one that waits is not among those performed before. -/
theorem notMem_of_waits {ops rest : List Trigger} {o : Order} {i : Instr} {x : Trigger}
    (split : ops ++ rest = o.restrictedTo (membersOf i)) (waits : x ∈ rest) : x ∉ ops := by
  have distinct : (o.restrictedTo (membersOf i)).Nodup := by
    cases o <;> cases i <;> decide
  rw [← split] at distinct
  exact fun before => List.disjoint_of_nodup_append distinct before waits

/-- A `CAR` that waits has not been performed. -/
theorem exec_carrierOut_of_carHeld {i : Instr} (notRst : i ≠ .rst) {s t : State} (free : s.nothingHeld)
    (h : exec i s = .next t) (held : t.heldCar = true) : t.carrierOut = s.carrierOut := by
  obtain ⟨ops, rest, u, split, -, run, rfl⟩ := exec_splits notRst h
  have waits : Trigger.car ∈ rest := by
    have nothing : u.heldCar = false := (performAll_held run).1.trans free.1
    simpa [State.hold, nothing] using held
  have noneBefore := List.count_eq_zero.mpr (notMem_of_waits split waits)
  simpa [noneBefore, State.hold, State.outWindowClosed] using performAll_carrierOut run

/-- Members without an `EDGE` leave the count of a window just closed at 0. -/
theorem performAll_pulse_of_windowClosed {ops : List Trigger} {s t : State} (noEdge : Trigger.edge ∉ ops)
    (start : s.windowClosed = true → s.pulseCount = 0#16) (h : performAll ops s = .next t) (closed : t.windowClosed = true) :
    t.pulseCount = 0#16 := by
  induction ops generalizing s with
  | nil =>
    cases h
    exact start closed
  | cons x xs ih =>
    obtain ⟨u, first, others⟩ := performAll_cons_next h
    refine ih (fun later => noEdge (List.mem_cons_of_mem x later)) ?_ others
    cases x with
    | car =>
      cases first
      exact start
    | edge => exact absurd List.mem_cons_self noEdge
    | tick =>
      intro closes
      obtain ⟨-, -, -, cleared, -⟩ := (tick_effect first).closes closes
      exact cleared

/-- An `EDGE` that waits has not been performed, and the `TICK` it waits for has cleared the count. -/
theorem exec_pulse_of_edgeHeld {i : Instr} (notRst : i ≠ .rst) {s t : State} (free : s.nothingHeld)
    (h : exec i s = .next t) (held : t.heldEdge = true) (closed : t.windowClosed = true) : t.pulseCount = 0#16 := by
  obtain ⟨ops, rest, u, split, -, run, rfl⟩ := exec_splits notRst h
  have waits : Trigger.edge ∈ rest := by
    have nothing : u.heldEdge = false := (performAll_held run).2.trans free.2
    simpa [State.hold, nothing] using held
  exact performAll_pulse_of_windowClosed (t := u) (notMem_of_waits split waits) (by simp [State.outWindowClosed]) run closed

end Sys2Proof.Machine

open Sys2Proof Sys2Proof.Machine

/-- Settles O39, by induction on the number of steps: with the channel ready no `REPORT` runs after a step, so that no item is excluded. -/
theorem runWithAReadyChannelNeverStops : Obligations.RunWithAReadyChannelNeverStops := by
  intro k s inRange nothing free items ready
  obtain ⟨t, done, idle⟩ := run_of_ready inRange ((reportRuns_iff s).mpr ⟨nothing, free⟩) items ready
  exact ⟨t, done, (reportRuns_iff t).mp idle⟩

/-- Settles O31. Whether an operation completes depends on the tick counters, and its members, performed one by one, read the block alone;
that some of them wait is the model's choice (log entry 18). -/
theorem blockCannotSeeTheAdjacentLayer : Obligations.BlockCannotSeeTheAdjacentLayer :=
  fun _ _ _ => exec_sameOutcome

/-- Settles O32. The fault record is judged on the settled states, which the step leaves, so that what sets it waited before the step
(log entries 5 and 18). -/
theorem adjacentStepsLeaveTheBlock : Obligations.AdjacentStepsLeaveTheBlock := by
  intro s t x rest items adjacent h
  have settled := step_adjacent_settled items adjacent h
  refine ⟨fun noneReleased => ?_, settled, fun clear recorded => performHeld_sets_faultOvf clear ?_⟩
  · obtain ⟨y, rest', items', effect⟩ := step_next h
    obtain ⟨rfl, rfl⟩ := List.cons.inj (items.symm.trans items')
    exact deliver_adjacent_sameBlock (s := s.setTrace rest) adjacent noneReleased effect
  · obtain ⟨-, -, -, -, -, -, fault, -⟩ := settled
    exact fault.trans (performHeld_faultOvf_sticky recorded)

/-- Settles O45, by induction on the number of steps: the bytes sent and waiting together grow by one packet where a window closes, and a
return of `SerialTx` only moves a byte from one to the other. -/
theorem onePacketPerWindow : Obligations.OnePacketPerWindow := by
  intro k s t noRst h
  simpa only [State.outbound, List.length_append] using run_outbound_length noRst h

/-- Settles O47, by induction on the number of returns; that members wait for the last of them is the model's choice (log entry 18). -/
theorem waitingBytesAreSentInOrder : Obligations.WaitingBytesAreSentInOrder := by
  intro k s items
  simpa only [afterReturns_eq] using run_txEmpty items

/-- Settles O50. Each malformed piece leaves the parser in `Idle`, where the frame finds it. -/
theorem parserResynchronises : Obligations.ParserResynchronises := by
  intro s junk h l idle malformed
  have settled : s.rxBytes (junk.flatten ++ [0xDD#8, 0xDD#8, h, l]) = { s with dacH := h, dacL := l } := by
    rw [rxBytes_append, rxBytes_junk idle malformed, rxBytes_frame idle]
  exact ⟨settled, by rw [settled]; rfl⟩

/-- Settles O59. That members of a step wait for its `REPORT` is the model's choice (log entry 18). -/
theorem membersAfterAClosingTickWait : Obligations.MembersAfterAClosingTickWait := by
  intro i s t notRst free h
  have waits := operation_holds notRst free h
  rw [reportHolds_iff, (exec_sameSurroundings notRst h).params] at waits
  obtain ⟨car, edge⟩ := waits
  refine ⟨car, edge, exec_carrierOut_of_carHeld notRst free h, fun held => ?_⟩
  obtain ⟨-, -, closed, -⟩ := edge.mp held
  exact exec_pulse_of_edgeHeld notRst free h held closed

/-- Settles O48, by the state of the parser. -/
theorem parserStateTable : Obligations.ParserStateTable := by
  intro s b bs rest items idle queue
  rw [step_mainLoop items, mainLoop_of_byte (s := s.setTrace rest) idle queue]
  cases h : s.parser with
  | idle => exact congrArg _ (rxByte_of_idle (s := (s.setTrace rest).setRxQueue bs) h b)
  | sync1 => exact congrArg _ (rxByte_of_sync1 (s := (s.setTrace rest).setRxQueue bs) h b)
  | highByte => exact congrArg _ (rxByte_of_highByte (s := (s.setTrace rest).setRxQueue bs) h b)
  | lowByte => exact congrArg _ (rxByte_of_lowByte (s := (s.setTrace rest).setRxQueue bs) h b)

/-- Settles O49. A byte is read only where no `REPORT` runs and one is there to read. -/
theorem mainLoopWaits : Obligations.MainLoopWaits := by
  intro s rest items waits
  rw [step_mainLoop items, mainLoop_of_waits (s := s.setTrace rest) waits]
  rfl

/-- Settles O51. The second `DD DD` is the payload of a frame. -/
theorem markersAloneWriteNothing : Obligations.MarkersAloneWriteNothing :=
  fun _ idle => ⟨rxBytes_markers idle, rxBytes_frame idle 0xDD#8 0xDD#8⟩

end

section
/-! The exceptions section of the specification: which operations complete at which states (rules R61 and R170). -/

namespace Sys2Proof.Machine

/-- The refusal of rule R34 is the only way not to complete: no operation faults, and a refusal needs a `TICK` out of range. -/
theorem exec_completes_iff (i : Instr) (s : State) :
    (∃ t, exec i s = .next t) ↔ (performedBy .tick i = true → s.ticksInRange = true) := by
  have refuses := exec_refuses_iff i s
  cases h : exec i s with
  | next t => simpa [h] using refuses
  | fault r => exact absurd h (exec_ne_fault i s r)
  | refused r =>
    obtain rfl := exec_refused h
    simpa [h] using refuses

end Sys2Proof.Machine

open Sys2Proof Sys2Proof.Machine

/-- Settles O33. The five operations named have no `TICK` among their members. -/
theorem everyOperationCompletes : Obligations.EveryOperationCompletes := by
  intro i s inRangeOrTickless
  rw [exec_completes_iff, ticksInRange_iff]
  intro ticks
  have notTickless : i ∉ [Instr.nop, .car, .edge, .simCE, .rst] := by
    revert ticks
    cases i <;> decide
  exact inRangeOrTickless.resolve_right notTickless

end

section
/-! The reset section of the specification: the words that select `RST` and what it writes of the block (rule R190). -/

namespace Sys2Proof

/-- The reset bit is the highest of the four, so it is 1 exactly in the words 8 to F (rule R70). -/
theorem rst_iff_eight_le (w : EventWord) : EventWord.rst w = true ↔ 8 ≤ w.toNat := by
  have top : EventWord.rst w = w.msb := (BitVec.msb_eq_getLsbD_last w).symm
  simp [top, BitVec.msb_eq_decide]

end Sys2Proof

open Sys2Proof Sys2Proof.Machine

/-- Settles O26. `RST` has no `TICK` among its members, so it completes from every state, and its registers are those of the reset state. -/
theorem rstWritesTheFiveRegisters : Obligations.RstWritesTheFiveRegisters := by
  refine ⟨fun w high => decode_of_rst ((rst_iff_eight_le w).mpr high), fun s => ?_⟩
  obtain ⟨t, done⟩ := (exec_completes_iff .rst s).mpr (by simp [performedBy])
  have reg := exec_rst_readReg done
  exact ⟨t, done, reg 3, reg 4, reg 1, reg 2, reg 0, exec_rst_windowClosed done, (exec_rst_faultOvf_draws done).1⟩

end

section
/-! What is left of the specification: written traces (rule R77), what a running `REPORT` excludes (rule R142), and the reset of the
adjacent layer (rule R41). -/

namespace Sys2Proof

/-! ### Written traces -/

theorem repeated_singleton {α : Type} (n : Nat) (x : α) : repeated n [x] = List.replicate n x := by
  rw [repeated_eq_replicate, List.flatten_replicate_singleton]

theorem assemble_decode (t : Trace) : t.assemble.map decode = t.expand.map Prod.fst := by
  simp [Trace.assemble]

theorem assemble_emitted {t : Trace} {w : EventWord} (h : w ∈ t.assemble) : EventWord.emitted w = true := by
  obtain ⟨p, -, rfl⟩ := List.mem_map.mp h
  exact encode_emitted p.1

theorem Instr.wellFormed_eq_true (i : Instr) : i.wellFormed = true := by
  cases i <;> rfl

theorem Instr.orderMatters_iff (i : Instr) : i.orderMatters = true ↔ i = .simET ∨ i = .simCET := by
  cases i <;> decide

theorem Trace.annotated_wellFormed (i : Instr) (o : EdgeTickOrder) :
    (Trace.op i (some o)).wellFormed = i.orderMatters := by
  rw [Trace.wellFormed, i.wellFormed_eq_true, Bool.true_and]

theorem Trace.op_assemble (i : Instr) (a : Option EdgeTickOrder) : (Trace.op i a).assemble = [encode i] :=
  rfl

end Sys2Proof

namespace Sys2Proof.Machine

/-! ### What a running `REPORT` excludes -/

theorem reportRuns_eq_true_iff (s : State) :
    s.reportRuns = true ↔ s.txPending ≠ [] ∨ s.heldCar = true ∨ s.heldEdge = true := by
  simp [State.reportRuns, or_assoc]

/-- The two values of decision D25: both exclude a `TICK`, and `all` excludes `EDGE` and `CAR` too. -/
theorem reportExcludes_iff (s : State) (ew : EventWord) :
    s.reportExcludes ew = true ↔
      s.reportRuns = true ∧ EventWord.rst ew = false ∧
        (EventWord.t ew = true ∨ s.params.reportBlocks = .all ∧ (EventWord.e ew = true ∨ EventWord.c ew = true)) := by
  cases mode : s.params.reportBlocks with
  | all =>
    simp only [State.reportExcludes, mode, Bool.and_eq_true, Bool.or_eq_true, Bool.not_eq_true', true_and, and_assoc]
    rw [or_comm, or_comm (a := EventWord.c ew = true)]
  | tickOnly => simp [State.reportExcludes, mode, and_assoc]

/-- No operation faults, so `reportStalled` is raised by the exclusion alone. -/
theorem step_stalls_iff {s : State} {ew : EventWord} {inputs : Inputs} {rest : List Stimulus}
    (items : s.trace = .event ew inputs :: rest) : step s = .fault .reportStalled ↔ s.reportExcludes ew = true := by
  cases excluded : s.reportExcludes ew with
  | false => simp [step_of_event items excluded, exec_ne_fault]
  | true =>
    have excluded' : (s.setTrace rest).reportExcludes ew = true := excluded
    simp [step, items, deliver, deliverEvent, excluded']

/-! ### Reset -/

theorem exec_rst_adjacent {s t : State} (h : exec .rst s = .next t) :
    t.parser = .idle ∧ t.analogSetpoint = s.params.dacInit ∧ t.txSent = [] ∧ t.txPending = [] ∧ t.nothingHeld := by
  cases h
  exact ⟨rfl, resetWith_analogSetpoint s.params, rfl, rfl, rfl, rfl⟩

/-- The reset state is what `RST` leaves of it. -/
theorem exec_rst_resetWith (p : Params) : exec .rst (State.resetWith p) = .next (State.resetWith p) :=
  rfl

end Sys2Proof.Machine

open Sys2Proof Sys2Proof.Machine

/-- Settles O4. A word of an assembled trace is the encoding of an operation, so it decodes to that operation and is emitted. -/
theorem writtenTraceExpandsAndAssembles : Obligations.WrittenTraceExpandsAndAssembles :=
  ⟨fun t => ⟨assemble_decode t, fun _ => assemble_emitted⟩, fun t n => repeated_eq_replicate n t.expand, fun _ _ => rfl,
    repeated_singleton 100 _, repeated_singleton 10 _, fun n => repeated_singleton n _⟩

/-- Settles O9. That an excluded word is a fault, and that members of a step wait, are the model's choices (log entries 10 and 18). -/
theorem runningReportExcludesTriggers : Obligations.RunningReportExcludesTriggers := by
  intro s ew inputs rest items
  rw [step_stalls_iff items, reportExcludes_iff, reportRuns_eq_true_iff]
  rfl

/-- Settles O5. That only forms with both `E` and `T` may be annotated is the model's choice (log entry 17). -/
theorem orderAnnotationsOfWrittenTraces : Obligations.OrderAnnotationsOfWrittenTraces := by
  intro i o
  rw [Trace.annotated_wellFormed, Instr.orderMatters_iff, Trace.op_assemble, Trace.op_assemble]
  exact ⟨Iff.rfl, rfl⟩

/-- Settles O27. That `RST` reaches the adjacent layer at all is the model's reading (log entry 9). -/
theorem rstOnTheAdjacentLayer : Obligations.RstOnTheAdjacentLayer := by
  intro s
  obtain ⟨t, done⟩ := (exec_completes_iff .rst s).mpr (by simp [performedBy])
  obtain ⟨idle, setpoint, sent, pending, free⟩ := exec_rst_adjacent done
  obtain ⟨inputs, queue⟩ := exec_rst_inputs_rxQueue done
  obtain ⟨trace, params⟩ := exec_rst_trace_params done
  exact ⟨t, done, idle, setpoint, sent, pending, free, queue, inputs, trace, params, (exec_rst_faultOvf_draws done).2⟩

/-- Settles O37. `RST` establishes the invariant, and the reset state is one that `RST` leaves. -/
theorem machineInvariantAtReset : Obligations.MachineInvariantAtReset :=
  fun p => exec_rst_inv (exec_rst_resetWith p)

end
